-- ==== Sys2Proof/Word.lean ====
section
/-! DEFINITION. The words of the block: bytes, and the 64-bit lengths and indices (00_scope.md R9, R10). -/

namespace Sys2Proof

/-- A byte of a stream, a key register or a buffer cell: 8 bits, bit 0 the least significant (R10). -/
abbrev Byte := BitVec 8

/-- A payload length or index: 64 bits, unsigned (R9, R26, R29). -/
abbrev Len := BitVec 64

end Sys2Proof
end

