-- ==== Sys2Proof/Config.lean ====
section
/-! DEFINITION. What one implementation fixes, and the free values: constants with no body, so that no proof can see a value
of one (00_scope.md R7, R8; 10_state.md R22). -/

namespace Sys2Proof

namespace Config

/-- `MAX_PAYLOAD` of this hardware, 0 to 2^64 - 1 (R7, U1): an open parameter. `State.reset` carries it; every other state
carries a value of its own (log 1). -/
opaque maxPayload : Len

/-- `CAUSE_W`, the width in bits of the cause of an I/O fault (R8, U2): an open parameter (log 2). -/
opaque causeW : Nat

/-- The storage whose bits are looked at while it holds no value (R22, R255). -/
inductive Unset where
  | decMasked | decLen | decIdx | decCnt | decKey (j : Nat)
  | encFin | encOpc | encMasked | encLen | encIdx | encCnt | encKey (j : Nat)
  | encCell (i : Nat)
  deriving DecidableEq, Repr

/-- FREE VALUE: the bits the hardware drives for storage that holds no value, "the spec says nothing of which" (R22; R255 for a
buffer cell). It may differ at each count `k`: of requests taken for DEC, of offers made for ENC
(log 4, log 5). -/
opaque noValue (what : Unset) (k : Nat) (w : Nat) : BitVec w

end Config

/-- The cause of an I/O fault: `CAUSE_W` bits the codec copies and never inspects (R8). -/
abbrev Cause := BitVec Config.causeW

end Sys2Proof
end

