-- ==== Sys2Proof/Syntax.lean ====
section
/-! DEFINITION. The instructions: one constructor per row of opcode_table.json (00_scope.md R6, 30_encoding.md R112). -/

namespace Sys2Proof

/-- The two units of the codec (10_state.md R20). -/
inductive Side where
  | dec
  | enc
  deriving DecidableEq, Repr

/-- The fields of byte b0 (30_encoding.md R92): FIN, RSV1 to RSV3 (RSV1 most significant), opcode. -/
structure FirstByte where
  fin : Bool
  rsv : BitVec 3
  opc : BitVec 4
  deriving DecidableEq, Repr

/-- The Frame ports that an accepted `enc_start` samples (10_state.md R50). -/
structure EncPorts where
  fin    : Bool
  opcode : BitVec 4
  masked : Bool
  key    : BitVec 32
  len    : Len
  deriving DecidableEq, Repr

/-- One constructor per row of the opcode table. A `side` says which unit takes or writes the bytes, where the row serves both. -/
inductive Instr where
  -- CMD: the two commands (R108, R151, R181)
  | decode
  | encode (ports : EncPorts)
  -- HDR: the six header forms (R94); `l7` is length7
  | hdrS (side : Side) (b0 : FirstByte) (l7 : BitVec 7)
  | hdrSM (side : Side) (b0 : FirstByte) (l7 : BitVec 7)
  | hdrE16 (side : Side) (b0 : FirstByte)
  | hdrE16M (side : Side) (b0 : FirstByte)
  | hdrE64 (side : Side) (b0 : FirstByte)
  | hdrE64M (side : Side) (b0 : FirstByte)
  -- OPC: the sixteen frame opcode values (R101); the row's word is b0 ++ b1
  | opCont (side : Side) (fin : Bool) (rsv : BitVec 3) (b1 : Byte)
  | opText (side : Side) (fin : Bool) (rsv : BitVec 3) (b1 : Byte)
  | opBin (side : Side) (fin : Bool) (rsv : BitVec 3) (b1 : Byte)
  | opRsvd3 (side : Side) (fin : Bool) (rsv : BitVec 3) (b1 : Byte)
  | opRsvd4 (side : Side) (fin : Bool) (rsv : BitVec 3) (b1 : Byte)
  | opRsvd5 (side : Side) (fin : Bool) (rsv : BitVec 3) (b1 : Byte)
  | opRsvd6 (side : Side) (fin : Bool) (rsv : BitVec 3) (b1 : Byte)
  | opRsvd7 (side : Side) (fin : Bool) (rsv : BitVec 3) (b1 : Byte)
  | opClose (side : Side) (fin : Bool) (rsv : BitVec 3) (b1 : Byte)
  | opPing (side : Side) (fin : Bool) (rsv : BitVec 3) (b1 : Byte)
  | opPong (side : Side) (fin : Bool) (rsv : BitVec 3) (b1 : Byte)
  | opRsvd11 (side : Side) (fin : Bool) (rsv : BitVec 3) (b1 : Byte)
  | opRsvd12 (side : Side) (fin : Bool) (rsv : BitVec 3) (b1 : Byte)
  | opRsvd13 (side : Side) (fin : Bool) (rsv : BitVec 3) (b1 : Byte)
  | opRsvd14 (side : Side) (fin : Bool) (rsv : BitVec 3) (b1 : Byte)
  | opRsvd15 (side : Side) (fin : Bool) (rsv : BitVec 3) (b1 : Byte)
  -- DSTEP: the decoder's sequencer steps (R160 to R165, R170, R171)
  | decStart
  | decHdr0 (v : Byte)
  | decHdr1 (v : Byte)
  | decExt (v : Byte)
  | decKey (v : Byte)
  | decPay (v : Byte)
  | decEos (phase : BitVec 3)
  | decFault (phase : BitVec 3) (c : Cause)
  -- ESTEP: the encoder's sequencer steps (R189 to R194, R196, R201)
  | encStart (ports : EncPorts)
  | encHdr0
  | encHdr1
  | encExt
  | encKey
  | encPay
  | encFlush
  | encFault (phase : BitVec 3) (c : Cause)
  -- SUB: the named sub-operations over b1 (R121 to R129, R141 to R143)
  | lenD7 (mask : Bool) (l7 : BitVec 7)
  | lenD16 (mask : Bool)
  | lenD64 (mask : Bool)
  | lenChk (mask : Bool) (l7 : BitVec 7)
  | lenTier (mask : Bool) (l7 : BitVec 7)
  | lenE7 (mask : Bool) (l7 : BitVec 7)
  | lenE16 (mask : Bool)
  | lenE64 (mask : Bool)
  | maskKey (side : Side) (l7 : BitVec 7)
  | maskXor (side : Side) (l7 : BitVec 7)
  | maskPass (side : Side) (l7 : BitVec 7)
  deriving DecidableEq, Repr

end Sys2Proof
end

