-- ==== Sys2Proof/WellFormed.lean ====
section
/-! DEFINITION. The constraints the rows of opcode_table.json put on their fields. -/

namespace Sys2Proof

/-- A tier-7 `length7` is at most 125 (30_encoding.md R94); the phase of an `Eos` or `Fault` row is a busy phase of its unit
(42_decode.md R170, R171; 43_encode.md R201). Every other row takes any operand. -/
def Instr.wf : Instr → Bool
  | .hdrS _ _ l7 => decide (l7 ≤ 125#7)
  | .hdrSM _ _ l7 => decide (l7 ≤ 125#7)
  | .lenD7 _ l7 => decide (l7 ≤ 125#7)
  | .lenE7 _ l7 => decide (l7 ≤ 125#7)
  | .decEos ph => decide (1#3 ≤ ph ∧ ph ≤ 5#3)
  | .decFault ph _ => decide (1#3 ≤ ph ∧ ph ≤ 5#3)
  | .encFault ph _ => decide (1#3 ≤ ph ∧ ph ≤ 6#3)
  | .decode => true
  | .encode _ => true
  | .hdrE16 _ _ => true
  | .hdrE16M _ _ => true
  | .hdrE64 _ _ => true
  | .hdrE64M _ _ => true
  | .opCont _ _ _ _ => true
  | .opText _ _ _ _ => true
  | .opBin _ _ _ _ => true
  | .opRsvd3 _ _ _ _ => true
  | .opRsvd4 _ _ _ _ => true
  | .opRsvd5 _ _ _ _ => true
  | .opRsvd6 _ _ _ _ => true
  | .opRsvd7 _ _ _ _ => true
  | .opClose _ _ _ _ => true
  | .opPing _ _ _ _ => true
  | .opPong _ _ _ _ => true
  | .opRsvd11 _ _ _ _ => true
  | .opRsvd12 _ _ _ _ => true
  | .opRsvd13 _ _ _ _ => true
  | .opRsvd14 _ _ _ _ => true
  | .opRsvd15 _ _ _ _ => true
  | .decStart => true
  | .decHdr0 _ => true
  | .decHdr1 _ => true
  | .decExt _ => true
  | .decKey _ => true
  | .decPay _ => true
  | .encStart _ => true
  | .encHdr0 => true
  | .encHdr1 => true
  | .encExt => true
  | .encKey => true
  | .encPay => true
  | .encFlush => true
  | .lenD16 _ => true
  | .lenD64 _ => true
  | .lenChk _ _ => true
  | .lenTier _ _ => true
  | .lenE16 _ => true
  | .lenE64 _ => true
  | .maskKey _ _ => true
  | .maskXor _ _ => true
  | .maskPass _ _ => true

end Sys2Proof
end

