-- ==== Sys2Proof/Decode.lean ====
section
/-! DEFINITION. Decoding a word of opcode_table.json to an instruction, and encoding an instruction to its word
(30_encoding.md R92 to R95, R101, R108, R109, R112). The rows of different formats, and the rows of format SUB, match the same
words, so the decoder is told which table reads the word. -/

namespace Sys2Proof

/-- What the decoder unit meets besides its PHASE: an accepted start or the source's answer (30_encoding.md R109). -/
inductive DecEvent where
  | start
  | data (v : Byte)
  | eos
  | fault (c : Cause)
  deriving DecidableEq, Repr

/-- What the encoder unit meets besides its PHASE: an accepted start with its Frame ports, or the sink's answer. -/
inductive EncEvent where
  | start (ports : EncPorts)
  | ok
  | fault (c : Cause)
  deriving DecidableEq, Repr

/-- The rows of format SUB, which are not exclusive of one another (R112): a step calls one by its name. -/
inductive SubRow where
  | lenD7 | lenD16 | lenD64 | lenChk | lenTier | lenE7 | lenE16 | lenE64
  | maskKey (side : Side) | maskXor (side : Side) | maskPass (side : Side)
  deriving DecidableEq, Repr

/-- The six formats of R112, each with what its rows need beside the word. -/
inductive Table where
  | cmdDec
  | cmdEnc (ports : EncPorts)
  | hdr (side : Side)
  | opc (side : Side)
  | dstep (ev : DecEvent)
  | estep (ev : EncEvent)
  | sub (row : SubRow)
  deriving DecidableEq, Repr

/-- Why a word is no instruction of a table. -/
inductive DecodeError where
  /-- fewer bytes than the table's word has -/
  | tooShort
  /-- a start wire that is not high gives no command (R108) -/
  | startWireLow
  /-- bits outside the 1-bit wire or the 3-bit PHASE are set -/
  | notInDomain
  /-- no row of the table has this PHASE with this event (R109) -/
  | noStepInPhase
  /-- b1 does not match the SUB row called -/
  | rowDoesNotMatch
  deriving DecidableEq, Repr

/-! ### The bytes b0 and b1 -/

/-- R92, read. -/
def FirstByte.ofByte (b : Byte) : FirstByte :=
  ⟨b.getLsbD 7, b.extractLsb' 4 3, b.extractLsb' 0 4⟩

/-- R92, written: FIN in bit 7, RSV1 to RSV3 in bits 6 to 4, the opcode in bits 3 to 0. -/
def FirstByte.toByte (f : FirstByte) : Byte := BitVec.ofBool f.fin ++ f.rsv ++ f.opc

/-- MASK, bit 7 of b1 (R93). -/
def maskOf (b1 : Byte) : Bool := b1.getLsbD 7

/-- length7, bits 6 to 0 of b1 (R93). -/
def length7Of (b1 : Byte) : BitVec 7 := b1.extractLsb' 0 7

/-- R93, written: MASK in bit 7, length7 in bits 6 to 0. -/
def secondByte (mask : Bool) (l7 : BitVec 7) : Byte := BitVec.ofBool mask ++ l7

/-! ### Decoding -/

/-- The header form of b0 ++ b1 (R94): the rows with length7 fixed first, then the two tier-7 rows. Total. -/
def decodeHdr (side : Side) (b0 b1 : Byte) : Instr :=
  let f := FirstByte.ofByte b0
  if length7Of b1 = 126#7 then
    (if maskOf b1 then .hdrE16M side f else .hdrE16 side f)
  else if length7Of b1 = 127#7 then
    (if maskOf b1 then .hdrE64M side f else .hdrE64 side f)
  else if maskOf b1 then .hdrSM side f (length7Of b1)
  else .hdrS side f (length7Of b1)

/-- The row of R101 for an opcode value, by its number. -/
def opcodeRow (o : BitVec 4) (side : Side) (fin : Bool) (rsv : BitVec 3) (b1 : Byte) : Instr :=
  match o.toNat with
  | 0 => .opCont side fin rsv b1
  | 1 => .opText side fin rsv b1
  | 2 => .opBin side fin rsv b1
  | 3 => .opRsvd3 side fin rsv b1
  | 4 => .opRsvd4 side fin rsv b1
  | 5 => .opRsvd5 side fin rsv b1
  | 6 => .opRsvd6 side fin rsv b1
  | 7 => .opRsvd7 side fin rsv b1
  | 8 => .opClose side fin rsv b1
  | 9 => .opPing side fin rsv b1
  | 10 => .opPong side fin rsv b1
  | 11 => .opRsvd11 side fin rsv b1
  | 12 => .opRsvd12 side fin rsv b1
  | 13 => .opRsvd13 side fin rsv b1
  | 14 => .opRsvd14 side fin rsv b1
  | _ => .opRsvd15 side fin rsv b1

/-- The opcode row of b0 ++ b1 (R101). Total. -/
def decodeOpc (side : Side) (b0 b1 : Byte) : Instr :=
  let f := FirstByte.ofByte b0
  opcodeRow f.opc side f.fin f.rsv b1

/-- A start wire (R108): the command is given when the wire is high. -/
def decodeStartWire (i : Instr) (b : Byte) : Except DecodeError Instr :=
  if b = 1#8 then .ok i else if b = 0#8 then .error .startWireLow else .error .notInDomain

/-- A row of format DSTEP: DEC.PHASE and the event (R109; phase codes 10_state.md R30). -/
def decodeDStep (ev : DecEvent) (b : Byte) : Except DecodeError Instr :=
  if 8 ≤ b.toNat then .error .notInDomain
  else match ev with
    | .start => if b = 0#8 then .ok .decStart else .error .noStepInPhase
    | .data v =>
      match b.toNat with
      | 1 => .ok (.decHdr0 v)
      | 2 => .ok (.decHdr1 v)
      | 3 => .ok (.decExt v)
      | 4 => .ok (.decKey v)
      | 5 => .ok (.decPay v)
      | _ => .error .noStepInPhase
    | .eos => if 1 ≤ b.toNat ∧ b.toNat ≤ 5 then .ok (.decEos (b.setWidth 3)) else .error .noStepInPhase
    | .fault c => if 1 ≤ b.toNat ∧ b.toNat ≤ 5 then .ok (.decFault (b.setWidth 3) c) else .error .noStepInPhase

/-- A row of format ESTEP: ENC.PHASE and the event (R109; phase codes 10_state.md R44). -/
def decodeEStep (ev : EncEvent) (b : Byte) : Except DecodeError Instr :=
  if 8 ≤ b.toNat then .error .notInDomain
  else match ev with
    | .start p => if b = 0#8 then .ok (.encStart p) else .error .noStepInPhase
    | .ok =>
      match b.toNat with
      | 1 => .ok .encHdr0
      | 2 => .ok .encHdr1
      | 3 => .ok .encExt
      | 4 => .ok .encKey
      | 5 => .ok .encPay
      | 6 => .ok .encFlush
      | _ => .error .noStepInPhase
    | .fault c => if 1 ≤ b.toNat ∧ b.toNat ≤ 6 then .ok (.encFault (b.setWidth 3) c) else .error .noStepInPhase

/-- A row of format SUB on b1: the row's match, mask and constraint. -/
def decodeSub (row : SubRow) (b1 : Byte) : Except DecodeError Instr :=
  let m := maskOf b1
  let l7 := length7Of b1
  match row with
  | .lenD7 => if l7 ≤ 125#7 then .ok (.lenD7 m l7) else .error .rowDoesNotMatch
  | .lenD16 => if l7 = 126#7 then .ok (.lenD16 m) else .error .rowDoesNotMatch
  | .lenD64 => if l7 = 127#7 then .ok (.lenD64 m) else .error .rowDoesNotMatch
  | .lenChk => .ok (.lenChk m l7)
  | .lenTier => .ok (.lenTier m l7)
  | .lenE7 => if l7 ≤ 125#7 then .ok (.lenE7 m l7) else .error .rowDoesNotMatch
  | .lenE16 => if l7 = 126#7 then .ok (.lenE16 m) else .error .rowDoesNotMatch
  | .lenE64 => if l7 = 127#7 then .ok (.lenE64 m) else .error .rowDoesNotMatch
  | .maskKey side => if m then .ok (.maskKey side l7) else .error .rowDoesNotMatch
  | .maskXor side => if m then .ok (.maskXor side l7) else .error .rowDoesNotMatch
  | .maskPass side => if m then .error .rowDoesNotMatch else .ok (.maskPass side l7)

/-- One word of a table whose words are one byte. -/
def decodeByteWith (f : Byte → Except DecodeError Instr) : List Byte → Except DecodeError (Instr × List Byte)
  | [] => .error .tooShort
  | b :: rest =>
    match f b with
    | .ok i => .ok (i, rest)
    | .error e => .error e

/-- One word of a table whose words are b0 ++ b1, b0 first on the wire. -/
def decodePairWith (f : Byte → Byte → Instr) : List Byte → Except DecodeError (Instr × List Byte)
  | b0 :: b1 :: rest => .ok (f b0 b1, rest)
  | [] => .error .tooShort
  | [_] => .error .tooShort

/-- The instruction that a table reads at the head of a run of bytes, and the bytes after it; total, a rejection has a name. -/
def decodeIn (t : Table) (bs : List Byte) : Except DecodeError (Instr × List Byte) :=
  match t with
  | .cmdDec => decodeByteWith (decodeStartWire .decode) bs
  | .cmdEnc p => decodeByteWith (decodeStartWire (.encode p)) bs
  | .hdr side => decodePairWith (decodeHdr side) bs
  | .opc side => decodePairWith (decodeOpc side) bs
  | .dstep ev => decodeByteWith (decodeDStep ev) bs
  | .estep ev => decodeByteWith (decodeEStep ev) bs
  | .sub row => decodeByteWith (decodeSub row) bs

/-! ### Encoding -/

/-- The table a constructor's row stands in, with what the row needs beside its word. -/
def Instr.table : Instr → Table
  | .decode => .cmdDec
  | .encode p => .cmdEnc p
  | .hdrS side _ _ => .hdr side
  | .hdrSM side _ _ => .hdr side
  | .hdrE16 side _ => .hdr side
  | .hdrE16M side _ => .hdr side
  | .hdrE64 side _ => .hdr side
  | .hdrE64M side _ => .hdr side
  | .opCont side _ _ _ => .opc side
  | .opText side _ _ _ => .opc side
  | .opBin side _ _ _ => .opc side
  | .opRsvd3 side _ _ _ => .opc side
  | .opRsvd4 side _ _ _ => .opc side
  | .opRsvd5 side _ _ _ => .opc side
  | .opRsvd6 side _ _ _ => .opc side
  | .opRsvd7 side _ _ _ => .opc side
  | .opClose side _ _ _ => .opc side
  | .opPing side _ _ _ => .opc side
  | .opPong side _ _ _ => .opc side
  | .opRsvd11 side _ _ _ => .opc side
  | .opRsvd12 side _ _ _ => .opc side
  | .opRsvd13 side _ _ _ => .opc side
  | .opRsvd14 side _ _ _ => .opc side
  | .opRsvd15 side _ _ _ => .opc side
  | .decStart => .dstep .start
  | .decHdr0 v => .dstep (.data v)
  | .decHdr1 v => .dstep (.data v)
  | .decExt v => .dstep (.data v)
  | .decKey v => .dstep (.data v)
  | .decPay v => .dstep (.data v)
  | .decEos _ => .dstep .eos
  | .decFault _ c => .dstep (.fault c)
  | .encStart p => .estep (.start p)
  | .encHdr0 => .estep .ok
  | .encHdr1 => .estep .ok
  | .encExt => .estep .ok
  | .encKey => .estep .ok
  | .encPay => .estep .ok
  | .encFlush => .estep .ok
  | .encFault _ c => .estep (.fault c)
  | .lenD7 _ _ => .sub .lenD7
  | .lenD16 _ => .sub .lenD16
  | .lenD64 _ => .sub .lenD64
  | .lenChk _ _ => .sub .lenChk
  | .lenTier _ _ => .sub .lenTier
  | .lenE7 _ _ => .sub .lenE7
  | .lenE16 _ => .sub .lenE16
  | .lenE64 _ => .sub .lenE64
  | .maskKey side _ => .sub (.maskKey side)
  | .maskXor side _ => .sub (.maskXor side)
  | .maskPass side _ => .sub (.maskPass side)

/-- The two bytes of an opcode row (R101). -/
def opcodeWord (o : BitVec 4) (fin : Bool) (rsv : BitVec 3) (b1 : Byte) : List Byte :=
  [FirstByte.toByte ⟨fin, rsv, o⟩, b1]

/-- The word of an instruction, in the bytes of its table: `encoding` of its row with its fields filled in. -/
def encode : Instr → List Byte
  | .decode => [1#8]
  | .encode _ => [1#8]
  | .hdrS _ b0 l7 => [b0.toByte, secondByte false l7]
  | .hdrSM _ b0 l7 => [b0.toByte, secondByte true l7]
  | .hdrE16 _ b0 => [b0.toByte, 0x7E#8]
  | .hdrE16M _ b0 => [b0.toByte, 0xFE#8]
  | .hdrE64 _ b0 => [b0.toByte, 0x7F#8]
  | .hdrE64M _ b0 => [b0.toByte, 0xFF#8]
  | .opCont _ fin rsv b1 => opcodeWord 0#4 fin rsv b1
  | .opText _ fin rsv b1 => opcodeWord 1#4 fin rsv b1
  | .opBin _ fin rsv b1 => opcodeWord 2#4 fin rsv b1
  | .opRsvd3 _ fin rsv b1 => opcodeWord 3#4 fin rsv b1
  | .opRsvd4 _ fin rsv b1 => opcodeWord 4#4 fin rsv b1
  | .opRsvd5 _ fin rsv b1 => opcodeWord 5#4 fin rsv b1
  | .opRsvd6 _ fin rsv b1 => opcodeWord 6#4 fin rsv b1
  | .opRsvd7 _ fin rsv b1 => opcodeWord 7#4 fin rsv b1
  | .opClose _ fin rsv b1 => opcodeWord 8#4 fin rsv b1
  | .opPing _ fin rsv b1 => opcodeWord 9#4 fin rsv b1
  | .opPong _ fin rsv b1 => opcodeWord 10#4 fin rsv b1
  | .opRsvd11 _ fin rsv b1 => opcodeWord 11#4 fin rsv b1
  | .opRsvd12 _ fin rsv b1 => opcodeWord 12#4 fin rsv b1
  | .opRsvd13 _ fin rsv b1 => opcodeWord 13#4 fin rsv b1
  | .opRsvd14 _ fin rsv b1 => opcodeWord 14#4 fin rsv b1
  | .opRsvd15 _ fin rsv b1 => opcodeWord 15#4 fin rsv b1
  | .decStart => [0#8]
  | .decHdr0 _ => [1#8]
  | .decHdr1 _ => [2#8]
  | .decExt _ => [3#8]
  | .decKey _ => [4#8]
  | .decPay _ => [5#8]
  | .decEos ph => [ph.setWidth 8]
  | .decFault ph _ => [ph.setWidth 8]
  | .encStart _ => [0#8]
  | .encHdr0 => [1#8]
  | .encHdr1 => [2#8]
  | .encExt => [3#8]
  | .encKey => [4#8]
  | .encPay => [5#8]
  | .encFlush => [6#8]
  | .encFault ph _ => [ph.setWidth 8]
  | .lenD7 m l7 => [secondByte m l7]
  | .lenD16 m => [secondByte m 126#7]
  | .lenD64 m => [secondByte m 127#7]
  | .lenChk m l7 => [secondByte m l7]
  | .lenTier m l7 => [secondByte m l7]
  | .lenE7 m l7 => [secondByte m l7]
  | .lenE16 m => [secondByte m 126#7]
  | .lenE64 m => [secondByte m 127#7]
  | .maskKey _ l7 => [secondByte true l7]
  | .maskXor _ l7 => [secondByte true l7]
  | .maskPass _ l7 => [secondByte false l7]

/-! ### A table word that comes without its table -/

/-- DESIGN CHOICE (log 8): a bare word does not say which table reads it, and most words match rows of several. The row with
the most bits of the word fixed is taken (a start wire and a PHASE code fix the whole byte), the first in the table's order
among equals; the row serves DEC where it serves both units, and an answer's operand byte is zero. -/
def tableOfWord (nbits w : Nat) : Option Table :=
  if 2 ^ nbits ≤ w then none
  else if nbits = 16 then
    (if 126 ≤ w % 128 then some (.hdr .dec) else some (.opc .dec))
  else if nbits = 8 then
    if w = 1 then some .cmdDec
    else if w = 0 then some (.dstep .start)
    else if w ≤ 5 then some (.dstep (.data 0#8))
    else if w = 6 then some (.estep .ok)
    else if w % 128 = 126 then some (.sub .lenD16)
    else if w % 128 = 127 then some (.sub .lenD64)
    else if 128 ≤ w then some (.sub (.maskKey .dec))
    else some (.sub (.maskPass .dec))
  else none

/-- The bytes of a table word, in the order the wire carries them: b0 (bits 15 to 8) before b1 (30_encoding.md R94). -/
def wordBytes (nbits w : Nat) : List Byte :=
  if nbits = 16 then [BitVec.ofNat 8 (w / 256), BitVec.ofNat 8 w]
  else if nbits = 8 then [BitVec.ofNat 8 w]
  else []

/-- The instruction read from a bare table word (log 8). -/
def decodeTableWord (nbits w : Nat) : Option Instr :=
  match tableOfWord nbits w with
  | none => none
  | some t =>
    match decodeIn t (wordBytes nbits w) with
    | .ok (i, _) => some i
    | .error _ => none

end Sys2Proof
end

