-- ==== Sys2Proof/Machine/State.lean ====
section
/-! DEFINITION. The state of the block (10_state.md R20 to R55) as plain data, with the environment's inputs held as lists the
step reads (log 6, log 7), and the state after reset (R55, 70_reset_and_hazards.md R240). -/

namespace Sys2Proof.Machine

/-! ### Enumerations -/

/-- DEC.PHASE (10_state.md R30): six values only; codes in Machine/Operands.lean. -/
inductive DecPhase where
  | idle | hdr0 | hdr1 | ext | key | pay
  deriving DecidableEq, Repr

/-- ENC.PHASE (10_state.md R44): seven values. -/
inductive EncPhase where
  | idle | hdr0 | hdr1 | ext | key | pay | flush
  deriving DecidableEq, Repr

/-- A result register RES (10_state.md R32, R45): NONE, OK, TRUNCATED, LENGTH_OVERFLOW, IO; codes in Machine/Flags.lean. -/
inductive Result where
  | noResult | ok | truncated | lengthOverflow | io
  deriving DecidableEq, Repr

/-! ### Registers and buffers

A register that "holds no value" (R22) is `none`: the spec's own state of it, entered at reset, at an accepted start and at a
failure, not a missing reset value (log 3). -/

/-- A payload buffer: the cells that hold a value, as (index, byte), indices strictly rising (R28, R41). A cell that is not
listed holds no value. -/
abbrev Memory := List Host.Cell

/-- The key file `K[0..3]` of a unit (R27, R40). -/
structure KeyRegs where
  k0 : Option Byte
  k1 : Option Byte
  k2 : Option Byte
  k3 : Option Byte
  deriving DecidableEq, Repr

/-- The decoder unit's registers and buffer (R23 to R34); it holds nothing else (R35). -/
structure Dec where
  fin    : Option Bool
  opc    : Option (BitVec 4)
  masked : Option Bool
  len    : Option Len
  key    : KeyRegs
  pbuf   : Memory
  idx    : Option Len
  phase  : DecPhase
  res    : Result
  cause  : Option Cause
  cnt    : Option (BitVec 4)
  deriving DecidableEq, Repr

/-- The encoder unit's registers (R36 to R46); its payload buffer is the caller's memory, `State.encPbuf`. -/
structure Enc where
  fin    : Option Bool
  opc    : Option (BitVec 4)
  masked : Option Bool
  len    : Option Len
  key    : KeyRegs
  idx    : Option Len
  cnt    : Option (BitVec 4)
  phase  : EncPhase
  res    : Result
  cause  : Option Cause
  deriving DecidableEq, Repr

/-! ### The streams -/

/-- One answer of the byte source as it stands on the ports `src_kind`, `src_data`, `src_cause` (R49; meaning 20_memory.md R62). -/
structure SrcAnswer where
  kind  : BitVec 2
  data  : Byte
  cause : Cause
  deriving DecidableEq, Repr

/-- One answer of the byte sink as it stands on the ports `snk_kind`, `snk_cause` (R50; meaning 20_memory.md R65). -/
structure SnkAnswer where
  kind  : BitVec 2
  cause : Cause
  deriving DecidableEq, Repr

/-- The byte source (R61): what it will answer, oldest first, any list at all (R86, log 6); and its position, how many bytes it
has given (R54 item 2). -/
structure Source where
  answers : List SrcAnswer
  taken   : Nat
  deriving DecidableEq, Repr

/-- The byte sink (R63): what it will answer, oldest first (log 6); every byte it has accepted, in order; the written content;
the tentative bytes of the running ENCODE; and the separate record of the tentative bytes of ENCODEs that failed or were
abandoned (43_encode.md R197, 70_reset_and_hazards.md R242, log 14). -/
structure Sink where
  answers   : List SnkAnswer
  accepted  : List Byte
  written   : List Byte
  tentative : List Byte
  abandoned : List (List Byte)
  deriving DecidableEq, Repr

/-! ### What is presented to the block -/

/-- The input wires at one clock edge (R49, R50). An acknowledge says that the stream gives its next answer in this cycle. -/
structure Edge where
  rst      : Bool
  decStart : Bool
  srcAck   : Bool
  encStart : Bool
  encPorts : EncPorts
  snkAck   : Bool
  deriving DecidableEq, Repr

/-- The output ports a caller reads (R49, R50; 70_reset_and_hazards.md R250). -/
inductive OutPort where
  | decBusy | decRes | decCause | decFin | decOpcode | decMasked | decKey | decLen
  | decPbData (addr : Len)
  | encBusy | encRes | encCause
  deriving DecidableEq, Repr

/-- One thing presented to the block (log 7): a clock edge; a word of the opcode table to be run as an instruction; a write of
the caller to its buffer ENC.PBUF; a read by the caller of an output port. -/
inductive Request where
  | edge (wires : Edge)
  | issue (table : Table) (word : List Byte)
  | callerWrite (addr : Nat) (v : Byte)
  | callerRead (port : OutPort)
  deriving DecidableEq, Repr

/-! ### The state -/

/-- Everything the spec gives the machine, and the environment's inputs. -/
structure State where
  /-- the decoder unit -/
  dec        : Dec
  /-- the encoder unit -/
  enc        : Enc
  /-- ENC.PBUF, the caller's memory (R41) -/
  encPbuf    : Memory
  /-- the byte source of DEC -/
  src        : Source
  /-- the byte sink of ENC -/
  snk        : Sink
  /-- what is presented next, first first (log 7) -/
  agenda     : List Request
  /-- the parameter MAX_PAYLOAD (R7, R52): no step changes it (log 1) -/
  maxPayload : Len
  /-- the model's count of requests taken, the argument of DEC's free values (log 4) -/
  tick       : Nat
  deriving DecidableEq, Repr

/-- Why the machine stops. The block's own errors Io, Truncated and LengthOverflow are results, not faults (R226). -/
inductive Fault where
  /-- Raised by a caller's read of an output port that has no value (R22, R253, U6). Safe: no value is promised (log 20). -/
  | noValueRead (port : OutPort)
  /-- Raised by an access of a unit or of the caller to a payload cell at or above MAX_PAYLOAD, which does not exist (R28, R41,
  R66). Safe: the machine stops; no run from a legal state reaches it through a unit (log 21). -/
  | noSuchCell (side : Side) (addr : Nat)
  deriving DecidableEq, Repr

/-- Why the model has no meaning for what is presented. -/
inductive Refusal where
  /-- Raised by an arm of exec for an instruction with no meaning yet. Safe: no next state. -/
  | notModelled (mnemonic : String)
  /-- Raised by a meaning whose row the unit's PHASE (or the byte the unit offers) does not select (R109, R172, R202): the
  machine has no such move there. Safe (log 13). -/
  | notSelected
  /-- Raised by a meaning for operands its row's constraint excludes. Safe: the decoder gives no such instruction. -/
  | illFormed
  /-- Raised by step for a word that is no instruction of its table. Safe: no next state. -/
  | undecodable (e : DecodeError)
  /-- Raised by an accepted enc_start with enc_len above MAX_PAYLOAD (R255, U7). Safe: the spec has a model refuse it (log 18). -/
  | encLenAboveMax
  /-- Raised by a caller's write to a cell below ENC.LEN while ENC is busy (R254, U11). Safe (log 19). -/
  | pbufWrittenDuringEncode
  deriving DecidableEq, Repr

/-! ### Reset values -/

/-- Four key registers that hold no value. -/
def KeyRegs.unset : KeyRegs := ⟨none, none, none, none⟩

/-- DEC after reset (R55): IDLE, NONE, everything else no value. -/
def Dec.reset : Dec :=
  { fin := none, opc := none, masked := none, len := none, key := KeyRegs.unset, pbuf := [], idx := none,
    phase := .idle, res := .noResult, cause := none, cnt := none }

/-- ENC after reset (R55): IDLE, NONE, everything else no value. -/
def Enc.reset : Enc :=
  { fin := none, opc := none, masked := none, len := none, key := KeyRegs.unset, idx := none, cnt := none,
    phase := .idle, res := .noResult, cause := none }

/-- The machine right after reset (R55, R240, R241). The surroundings have done nothing yet: DESIGN CHOICE (log 7, 14, 26), the
streams have nothing to answer, the caller has written no cell and nothing is presented. -/
def State.reset : State :=
  { dec := Dec.reset, enc := Enc.reset, encPbuf := [], src := ⟨[], 0⟩, snk := ⟨[], [], [], [], []⟩, agenda := [],
    maxPayload := Config.maxPayload, tick := 0 }

end Sys2Proof.Machine
end

