-- ==== Sys2Proof/Machine/Flags.lean ====
section
/-! DEFINITION. The result registers RES, the block's only flag-like state (10_state.md R32, R45, R48; 60_exceptions.md R210,
R214). There is no condition code, carry, overflow, zero or sign flag (R48). -/

namespace Sys2Proof.Machine

/-- The three errors of the block (R210). -/
inductive FrameError where
  | io (c : Cause)
  | truncated
  | lengthOverflow
  deriving DecidableEq, Repr

/-- The code of a result on the 3-bit port (R32, R214). -/
def Result.code : Result → BitVec 3
  | .noResult => 0#3
  | .ok => 1#3
  | .truncated => 2#3
  | .lengthOverflow => 3#3
  | .io => 4#3

/-- The result an error is reported by (R211 to R214). -/
def FrameError.result : FrameError → Result
  | .io _ => .io
  | .truncated => .truncated
  | .lengthOverflow => .lengthOverflow

/-- What CAUSE holds after an error: the cause of `Io`, otherwise what it held (R211 to R213). -/
def FrameError.causeAfter (e : FrameError) (old : Option Cause) : Option Cause :=
  match e with
  | .io c => some c
  | .truncated => old
  | .lengthOverflow => old

end Sys2Proof.Machine
end

