-- ==== Sys2Proof/Machine/Operands.lean ====
section
/-! DEFINITION. Operand forms: the meaning of a stream answer, the phase codes, the length tiers and their bytes, the key file
and its port, the mask (20_memory.md R62, R65, R67, R69; 30_encoding.md R92 to R95; 40_length.md; 41_mask.md). -/

namespace Sys2Proof.Machine

/-! ### Stream answers -/

/-- An answer of the byte source (00_scope.md R13). -/
inductive Answer where
  | data (v : Byte)
  | eos
  | fault (c : Cause)
  deriving DecidableEq, Repr

/-- R62: kind 0 is `Data`, 1 is `Eos`, 2 is `Fault`; the reserved kind 3 is treated as `Fault`. -/
def SrcAnswer.meaning (a : SrcAnswer) : Answer :=
  if a.kind = 0#2 then .data a.data
  else if a.kind = 1#2 then .eos
  else .fault a.cause

/-- A `Data` answer in port form. -/
def SrcAnswer.ofByte (v : Byte) : SrcAnswer := ⟨0#2, v, 0#Config.causeW⟩

/-- An answer of the byte sink (R13). -/
inductive SinkReply where
  | ok
  | fault (c : Cause)
  deriving DecidableEq, Repr

/-- R65: kind 0 is `Ok`, 2 is `Fault`; the reserved kinds 1 and 3 are treated as `Fault`. -/
def SnkAnswer.meaning (a : SnkAnswer) : SinkReply :=
  if a.kind = 0#2 then .ok else .fault a.cause

/-! ### Phases -/

/-- DEC.PHASE codes (R30). -/
def DecPhase.code : DecPhase → BitVec 3
  | .idle => 0#3
  | .hdr0 => 1#3
  | .hdr1 => 2#3
  | .ext => 3#3
  | .key => 4#3
  | .pay => 5#3

/-- ENC.PHASE codes (R44). -/
def EncPhase.code : EncPhase → BitVec 3
  | .idle => 0#3
  | .hdr0 => 1#3
  | .hdr1 => 2#3
  | .ext => 3#3
  | .key => 4#3
  | .pay => 5#3
  | .flush => 6#3

/-! ### The payload length (40_length.md) -/

/-- R67, R122: `x0 * 256 + x1`, first byte on the wire most significant. -/
def be16 (x0 x1 : Byte) : Nat := x0.toNat * 256 + x1.toNat

/-- R67, R123: eight bytes, first byte on the wire most significant. -/
def be64 (x0 x1 x2 x3 x4 x5 x6 x7 : Byte) : Nat :=
  x0.toNat * 2 ^ 56 + x1.toNat * 2 ^ 48 + x2.toNat * 2 ^ 40 + x3.toNat * 2 ^ 32 + x4.toNat * 2 ^ 24 + x5.toNat * 2 ^ 16 +
    x6.toNat * 2 ^ 8 + x7.toNat

/-- R125: `(LEN << 8) | zext_64(v)`. -/
def shiftIn (len : Len) (v : Byte) : Len := (len <<< 8) ||| v.setWidth 64

/-- The number of extended-length bytes that length7 announces (R95, R120). -/
def extBytes (l7 : BitVec 7) : Nat := if l7 ≤ 125#7 then 0 else if l7 = 126#7 then 2 else 8

/-- The three tiers (R126). -/
inductive Tier where
  | seven
  | sixteen
  | sixtyFour
  deriving DecidableEq, Repr

/-- `LEN.TIER` (R126): the minimal tier that fits. -/
def tierOf (n : Len) : Tier :=
  if n < 126#64 then .seven else if n ≤ 65535#64 then .sixteen else .sixtyFour

/-- The number of extended bytes a tier writes (R127 to R129). -/
def Tier.extBytes : Tier → BitVec 4
  | .seven => 0#4
  | .sixteen => 2#4
  | .sixtyFour => 8#4

/-- The length7 field a payload of `n` bytes is written with (R93, R127 to R129). -/
def length7For (n : Len) : BitVec 7 :=
  match tierOf n with
  | .seven => n.setWidth 7
  | .sixteen => 126#7
  | .sixtyFour => 127#7

/-- R130: the extended byte offered with `cnt` bytes still to write, `(LEN >> (8 * (CNT - 1))) & 0xFF`. -/
def extByte (n : Len) (cnt : BitVec 4) : Byte := (n >>> (8 * (cnt.toNat - 1))).setWidth 8

/-! ### The key and the mask (41_mask.md) -/

/-- `K[i]`; the four registers only (R27). -/
def KeyRegs.get (k : KeyRegs) : Nat → Option Byte
  | 0 => k.k0
  | 1 => k.k1
  | 2 => k.k2
  | 3 => k.k3
  | _ => none

/-- `K[i] <- v`; an index that names no register, which no run forms, writes nothing (log 17). -/
def KeyRegs.set (k : KeyRegs) (i : Nat) (v : Byte) : KeyRegs :=
  match i with
  | 0 => { k with k0 := some v }
  | 1 => { k with k1 := some v }
  | 2 => { k with k2 := some v }
  | 3 => { k with k3 := some v }
  | _ => k

/-- R50, R189: `K[0]` is bits 31 to 24 of the port, `K[3]` bits 7 to 0. -/
def KeyRegs.ofPort (w : BitVec 32) : KeyRegs :=
  ⟨some (w.extractLsb' 24 8), some (w.extractLsb' 16 8), some (w.extractLsb' 8 8), some (w.extractLsb' 0 8)⟩

/-- R49: the packing of `dec_key`, when all four registers hold a value. -/
def KeyRegs.toPort (k : KeyRegs) : Option (BitVec 32) :=
  match k.k0, k.k1, k.k2, k.k3 with
  | some a, some b, some c, some d => some (a ++ b ++ c ++ d)
  | _, _, _, _ => none

/-- The index of the key register a KEY step uses with `cnt` bytes left, `4 - CNT` on 4 bits (R164, R193). -/
def keyIndex (cnt : BitVec 4) : Nat := (4#4 - cnt).toNat

/-- The index of the key register that payload byte `i` uses, `i mod 4` (R142). -/
def maskIndex (i : Len) : Nat := i.toNat % 4

/-- `MASK.XOR` and `MASK.PASS` (R142, R143). -/
def maskApply (masked : Bool) (x k : Byte) : Byte := if masked then x ^^^ k else x

end Sys2Proof.Machine
end

