-- ==== Sys2Proof/Machine/Ops.lean ====
section
/-! DEFINITION. The named operations over the payload buffers, the registers and the streams, the block's one way of raising an
error and of leaving the failed state (60_exceptions.md R217, R218), and reset (70_reset_and_hazards.md R240). -/

namespace Sys2Proof.Machine

/-- The outcome of one step of this machine. -/
abbrev Out := Host.Outcome State Fault Refusal

/-- Go on from a next state; a stop stays. -/
def andThen (o : Out) (k : State → Out) : Out :=
  match o with
  | .next s => k s
  | .fault f => .fault f
  | .refused r => .refused r

/-! ### Payload buffers (20_memory.md R66) -/

/-- The canonical form: indices strictly rising. -/
def Memory.wf : Memory → Bool
  | [] => true
  | [_] => true
  | (a, _) :: (b, y) :: rest => decide (a < b) && Memory.wf ((b, y) :: rest)

/-- `MemRead`: the byte of a cell, none when it holds no value. -/
def Memory.read : Memory → Nat → Option Byte
  | [], _ => none
  | (b, x) :: rest, a => if b = a then some x else Memory.read rest a

/-- `MemWrite`: the cell takes the byte; the form stays canonical. -/
def Memory.write : Memory → Nat → Byte → Memory
  | [], a, v => [(a, v)]
  | (b, x) :: rest, a, v =>
    if a < b then (a, v) :: (b, x) :: rest
    else if b = a then (a, v) :: rest
    else (b, x) :: Memory.write rest a v

/-! ### Registers read by the units' own steps

A register that holds no value gives a free value (log 4). No run from a legal state reads one (R22; Safety.lean). DEC reads its
free values at the count of requests taken, ENC at the number of its present offer. -/

/-- The number of ENC's present offer: how many offers the sink has accepted or ENC has lost by a fault or a reset. It moves exactly
when a byte offered is answered or abandoned, so ENC's offer is one byte while the sink does not answer, free values in it
included (10_state.md R50: "the encoder holds `snk_flush` and `snk_data` unchanged"; log 5). -/
def State.offerCount (s : State) : Nat := s.snk.accepted.length + s.snk.abandoned.length

/-- A flag register's value, or a free bit. -/
def flagOr (r : Option Bool) (u : Config.Unset) (k : Nat) : Bool :=
  match r with
  | some b => b
  | none => (Config.noValue u k 1).getLsbD 0

/-- A register's value, or free bits. -/
def bitsOr {w : Nat} (r : Option (BitVec w)) (u : Config.Unset) (k : Nat) : BitVec w :=
  match r with
  | some v => v
  | none => Config.noValue u k w

def Dec.maskedV (d : Dec) (tick : Nat) : Bool := flagOr d.masked .decMasked tick
def Dec.lenV (d : Dec) (tick : Nat) : Len := bitsOr d.len .decLen tick
def Dec.idxV (d : Dec) (tick : Nat) : Len := bitsOr d.idx .decIdx tick
def Dec.cntV (d : Dec) (tick : Nat) : BitVec 4 := bitsOr d.cnt .decCnt tick
def Dec.keyV (d : Dec) (j tick : Nat) : Byte := bitsOr (d.key.get j) (.decKey j) tick

def Enc.finV (e : Enc) (offer : Nat) : Bool := flagOr e.fin .encFin offer
def Enc.opcV (e : Enc) (offer : Nat) : BitVec 4 := bitsOr e.opc .encOpc offer
def Enc.maskedV (e : Enc) (offer : Nat) : Bool := flagOr e.masked .encMasked offer
def Enc.lenV (e : Enc) (offer : Nat) : Len := bitsOr e.len .encLen offer
def Enc.idxV (e : Enc) (offer : Nat) : Len := bitsOr e.idx .encIdx offer
def Enc.cntV (e : Enc) (offer : Nat) : BitVec 4 := bitsOr e.cnt .encCnt offer
def Enc.keyV (e : Enc) (j offer : Nat) : Byte := bitsOr (e.key.get j) (.encKey j) offer

/-- The byte on `enc_pb_data` for a cell: what the caller wrote, or a free byte for a cell that holds no value (R255, log 5). -/
def encCell (pbuf : Memory) (i offer : Nat) : Byte := bitsOr (pbuf.read i) (.encCell i) offer

/-! ### Updates of State -/

def State.withDec (s : State) (d : Dec) : State := { s with dec := d }
def State.withEnc (s : State) (e : Enc) : State := { s with enc := e }

/-- One source transfer has happened: the answer is gone from the source, and a `Data` answer has moved its position on
(20_memory.md R61, R75; 42_decode.md R169). -/
def State.takeAnswer (s : State) (a : SrcAnswer) : State :=
  { s with src := { answers := s.src.answers.tail,
                    taken := match a.meaning with
                      | .data _ => s.src.taken + 1
                      | .eos => s.src.taken
                      | .fault _ => s.src.taken } }

/-- The source has given `k` bytes that the instruction itself carries. -/
def State.bytesGiven (s : State) (k : Nat) : State := { s with src := { s.src with taken := s.src.taken + k } }

/-- One sink transfer has happened: the answer is gone. -/
def State.takeReply (s : State) : State := { s with snk := { s.snk with answers := s.snk.answers.tail } }

/-- The sink has accepted a byte of the running ENCODE (20_memory.md R63; tentative, 43_encode.md R197). -/
def State.accept (s : State) (v : Byte) : State :=
  { s with snk := { s.snk with accepted := s.snk.accepted ++ [v], tentative := s.snk.tentative ++ [v] } }

/-- The flush has been answered `Ok`: the tentative bytes are written (R197). -/
def State.commit (s : State) : State :=
  { s with snk := { s.snk with written := s.snk.written ++ s.snk.tentative, tentative := [] } }

/-- The running ENCODE has failed or been abandoned: its tentative bytes go to the separate record (R197, R242). -/
def Sink.abandon (k : Sink) : Sink := { k with abandoned := k.abandoned ++ [k.tentative], tentative := [] }

/-! ### Raising an error: the block's trap entry (60_exceptions.md R217) -/

/-- DEC's side of an error, DecFail (42_decode.md R166, R171): the result and the cause are recorded, the unit is IDLE, the
Frame registers and the buffer lose their values. -/
def Dec.raise (e : FrameError) (d : Dec) : Dec :=
  { d with res := e.result, cause := e.causeAfter d.cause, phase := .idle,
           fin := none, opc := none, masked := none, len := none, key := KeyRegs.unset, pbuf := [] }

/-- ENC's side of an error (43_encode.md R201). -/
def Enc.raise (e : FrameError) (r : Enc) : Enc :=
  { r with res := e.result, cause := e.causeAfter r.cause, phase := .idle }

/-- The one way an operation fails: at DEC, and at ENC, where the accepted bytes never become written (R197, R216, R217). -/
def State.raise (side : Side) (e : FrameError) (s : State) : State :=
  match side with
  | .dec => { s with dec := s.dec.raise e }
  | .enc => { s with enc := s.enc.raise e, snk := s.snk.abandon }

/-! ### Leaving the failed state: the next accepted start (60_exceptions.md R218) -/

/-- DEC at an accepted `dec_start` (42_decode.md R160): result NONE, phase HDR0, no other register and no cell holds a value. -/
def Dec.started : Dec := { Dec.reset with phase := .hdr0 }

/-- ENC at an accepted `enc_start` (43_encode.md R189): the Frame ports are sampled; the key only when masking. -/
def Enc.started (p : EncPorts) : Enc :=
  { fin := some p.fin, opc := some p.opcode, masked := some p.masked, len := some p.len,
    key := if p.masked then KeyRegs.ofPort p.key else KeyRegs.unset,
    idx := none, cnt := none, phase := .hdr0, res := .noResult, cause := none }

/-! ### Reset (70_reset_and_hazards.md R240, R242) -/

/-- One edge with `rst = 1`: both units as after reset; the bytes of an abandoned ENCODE stay tentative for ever; streams, the
caller's buffer and what is presented next are not the block's and stay (log 24). -/
def State.applyReset (s : State) : State :=
  { s with dec := Dec.reset, enc := Enc.reset,
           snk := if s.enc.phase = .idle then s.snk else s.snk.abandon }

/-! ### Which row a unit's PHASE selects (30_encoding.md R109) -/

/-- A row of DEC runs in its phase. While IDLE an answer is no transfer and changes nothing (R62, R167, R172); in another busy
phase the row is not the one PHASE selects (log 13). -/
def whenDec (ph : DecPhase) (s : State) (k : Out) : Out :=
  if s.dec.phase = ph then k
  else if s.dec.phase = .idle then .next s
  else .refused .notSelected

/-- A row of ENC runs in its phase; while IDLE `snk_ack` is ignored (R198, R202); otherwise as for DEC. -/
def whenEnc (ph : EncPhase) (s : State) (k : Out) : Out :=
  if s.enc.phase = ph then k
  else if s.enc.phase = .idle then .next s
  else .refused .notSelected

end Sys2Proof.Machine
end

