-- ==== Sys2Proof/Machine/Decoder.lean ====
section
/-! DEFINITION. The decoder unit's sequencer steps, family DSTEP (42_decode.md R160 to R167, R170, R171). -/

namespace Sys2Proof.Machine

/-! ### The header-end procedures (R166); DecFail is `Dec.raise` -/

/-- `DecComplete`: the frame is complete. -/
def Dec.complete (d : Dec) : Dec := { d with res := .ok, phase := .idle }

/-- `DecAfterKey(len')`: the header is complete. -/
def Dec.afterKey (len : Len) (d : Dec) : Dec :=
  if len = 0#64 then Dec.complete { d with idx := some 0#64 }
  else { d with idx := some 0#64, phase := .pay }

/-- `LEN.CHK` (40_length.md R124): the length is above the buffer's capacity. -/
def overLong (max len : Len) : Bool := decide (max < len)

/-- `DecAfterLen(len', masked')`: the length is complete; the check comes before the key. -/
def Dec.afterLen (max len : Len) (masked : Bool) (d : Dec) : Dec :=
  if overLong max len then d.raise .lengthOverflow
  else if masked then { d with cnt := some 4#4, phase := .key }
  else d.afterKey len

/-! ### What a step does to the unit -/

/-- R161: FIN is bit 7 of b0, OPC bits 3 to 0; bits 6 to 4 are dropped (30_encoding.md R98). -/
def Dec.takeB0 (v : Byte) (d : Dec) : Dec :=
  { d with fin := some (FirstByte.ofByte v).fin, opc := some (FirstByte.ofByte v).opc, phase := .hdr1 }

/-- R162: MASKED is bit 7 of b1; length7 is a tier-7 length or chooses the number of extended bytes. -/
def Dec.takeB1 (max : Len) (v : Byte) (d : Dec) : Dec :=
  let l7 := length7Of v
  let m := maskOf v
  if l7 ≤ 125#7 then
    Dec.afterLen max (l7.setWidth 64) m { d with masked := some m, len := some (l7.setWidth 64) }
  else
    { d with masked := some m, len := some 0#64, cnt := some (if l7 = 126#7 then 2#4 else 8#4), phase := .ext }

/-- R163: one extended-length byte, most significant first; the last one completes the length. -/
def Dec.takeExt (max : Len) (tick : Nat) (v : Byte) (d : Dec) : Dec :=
  let len := shiftIn (d.lenV tick) v
  let cnt := d.cntV tick - 1#4
  let m := d.maskedV tick
  if cnt = 0#4 then Dec.afterLen max len m { d with len := some len, cnt := some cnt }
  else { d with len := some len, cnt := some cnt }

/-- R164: one key byte, to `K[4 - CNT]`; the fourth completes the header. -/
def Dec.takeKey (tick : Nat) (v : Byte) (d : Dec) : Dec :=
  let cnt := d.cntV tick - 1#4
  let key := d.key.set (keyIndex (d.cntV tick)) v
  if cnt = 0#4 then Dec.afterKey (d.lenV tick) { d with key := key, cnt := some cnt }
  else { d with key := key, cnt := some cnt }

/-- R165: the byte a PAY step stores, unmasked with `K[IDX mod 4]` when MASKED (41_mask.md R142, R143). -/
def Dec.payByte (tick : Nat) (v : Byte) (d : Dec) : Byte :=
  maskApply (d.maskedV tick) v (d.keyV (maskIndex (d.idxV tick)) tick)

/-- R165: one payload byte into cell IDX; the last one completes the frame. -/
def Dec.takePay (tick : Nat) (v : Byte) (d : Dec) : Dec :=
  let idx := d.idxV tick + 1#64
  let pbuf := d.pbuf.write (d.idxV tick).toNat (d.payByte tick v)
  if idx = d.lenV tick then Dec.complete { d with pbuf := pbuf, idx := some idx }
  else { d with pbuf := pbuf, idx := some idx }

/-! ### The meanings

A meaning is what the step does to the unit; the transfer around it (`decTransfer`, or an edge) moves the source. A row presented
by a word of its own has no transfer around it (DESIGN CHOICE, log 30). -/

/-- `DEC.START` (R160): while busy the start is ignored and not remembered (70_reset_and_hazards.md R252). -/
def execDecStart (s : State) : Out :=
  if s.dec.phase = .idle then .next (s.withDec Dec.started) else .next s

/-- `DEC.HDR0` (R161). -/
def execDecHdr0 (v : Byte) (s : State) : Out :=
  whenDec .hdr0 s (.next (s.withDec (s.dec.takeB0 v)))

/-- `DEC.HDR1` (R162). -/
def execDecHdr1 (v : Byte) (s : State) : Out :=
  whenDec .hdr1 s (.next (s.withDec (s.dec.takeB1 s.maxPayload v)))

/-- `DEC.EXT` (R163). -/
def execDecExt (v : Byte) (s : State) : Out :=
  whenDec .ext s (.next (s.withDec (s.dec.takeExt s.maxPayload s.tick v)))

/-- `DEC.KEY` (R164). -/
def execDecKey (v : Byte) (s : State) : Out :=
  whenDec .key s (.next (s.withDec (s.dec.takeKey s.tick v)))

/-- `DEC.PAY` (R165); a cell at or above MAX_PAYLOAD does not exist (20_memory.md R66, log 21). -/
def execDecPay (v : Byte) (s : State) : Out :=
  whenDec .pay s
    (if s.dec.idxV s.tick < s.maxPayload then .next (s.withDec (s.dec.takePay s.tick v))
     else .fault (.noSuchCell .dec (s.dec.idxV s.tick).toNat))

/-- A row of DEC that ends the operation in failure from the busy phase its word names (R170, R171). -/
def decFailIn (ph : BitVec 3) (e : FrameError) (s : State) : Out :=
  if 1#3 ≤ ph ∧ ph ≤ 5#3 then
    (if s.dec.phase.code = ph then .next (s.raise .dec e)
     else if s.dec.phase = .idle then .next s
     else .refused .notSelected)
  else .refused .illFormed

/-- `DEC.EOS` (R170): the raising of `Truncated`. -/
def execDecEos (ph : BitVec 3) (s : State) : Out := decFailIn ph .truncated s

/-- `DEC.FAULT` (R171): the raising of `Io(c)`. -/
def execDecFault (ph : BitVec 3) (c : Cause) (s : State) : Out := decFailIn ph (.io c) s

/-! ### One transfer, and runs of transfers -/

/-- The step that PHASE names for a data byte (R109). -/
def decDataStep (v : Byte) (s : State) : Out :=
  match s.dec.phase with
  | .idle => .next s
  | .hdr0 => execDecHdr0 v s
  | .hdr1 => execDecHdr1 v s
  | .ext => execDecExt v s
  | .key => execDecKey v s
  | .pay => execDecPay v s

/-- One source transfer: the answer is taken, and the step that PHASE and the kind of answer name is done (R109). -/
def decTransfer (a : SrcAnswer) (s : State) : Out :=
  match a.meaning with
  | .data v => decDataStep v (s.takeAnswer a)
  | .eos => execDecEos s.dec.phase.code (s.takeAnswer a)
  | .fault c => execDecFault s.dec.phase.code c (s.takeAnswer a)

/-- DEC's transfers over the answers the source gives, while its phase is one of `go`; when the source has no more answer, DEC
waits in its phase (R172). -/
def decRun (go : DecPhase → Bool) : List SrcAnswer → State → Out
  | [], s => .next s
  | a :: rest, s => if go s.dec.phase then andThen (decTransfer a s) (decRun go rest) else .next s

/-- The decoder is busy (10_state.md R30). -/
def DecPhase.busy (p : DecPhase) : Bool := decide (p ≠ .idle)

/-- The decoder is still reading what follows b1 in the header. -/
def DecPhase.inHeaderTail (p : DecPhase) : Bool := decide (p = .ext ∨ p = .key)

end Sys2Proof.Machine
end

