-- ==== Sys2Proof/Machine/Encoder.lean ====
section
/-! DEFINITION. The encoder unit's sequencer steps, family ESTEP (43_encode.md R189 to R198, R201). -/

namespace Sys2Proof.Machine

/-! ### The header-end procedures (R195) -/

/-- `EncAfterKey()`: the header is written. -/
def Enc.afterKey (offer : Nat) (e : Enc) : Enc :=
  { e with idx := some 0#64, phase := if e.lenV offer = 0#64 then .flush else .pay }

/-- `EncAfterLen()`: b1 and any extended bytes are written. -/
def Enc.afterLen (offer : Nat) (e : Enc) : Enc :=
  if e.maskedV offer then { e with cnt := some 4#4, phase := .key } else e.afterKey offer

/-! ### The byte offered in each phase -/

/-- R190: `(FIN << 7) | zext_8(OPC)`. -/
def Enc.b0 (offer : Nat) (e : Enc) : Byte :=
  ((BitVec.ofBool (e.finV offer)).setWidth 8 <<< 7) ||| (e.opcV offer).setWidth 8

/-- R191: `(MASKED << 7) | length7`, the minimal tier. -/
def Enc.b1 (offer : Nat) (e : Enc) : Byte :=
  ((BitVec.ofBool (e.maskedV offer)).setWidth 8 <<< 7) ||| (length7For (e.lenV offer)).setWidth 8

/-- R192: the most significant extended byte that remains. -/
def Enc.extOffer (offer : Nat) (e : Enc) : Byte := extByte (e.lenV offer) (e.cntV offer)

/-- R193: `K[4 - CNT]`. -/
def Enc.keyOffer (offer : Nat) (e : Enc) : Byte := e.keyV (keyIndex (e.cntV offer)) offer

/-- R194: the caller's cell IDX, XORed with `K[IDX mod 4]` when MASKED. -/
def Enc.payOffer (pbuf : Memory) (offer : Nat) (e : Enc) : Byte :=
  maskApply (e.maskedV offer) (encCell pbuf (e.idxV offer).toNat offer) (e.keyV (maskIndex (e.idxV offer)) offer)

/-! ### What a step does to the unit at its `Ok` answer -/

/-- R191: the tier of the length decides between the end of the length and 2 or 8 extended bytes. -/
def Enc.afterB1 (offer : Nat) (e : Enc) : Enc :=
  match tierOf (e.lenV offer) with
  | .seven => e.afterLen offer
  | .sixteen => { e with cnt := some 2#4, phase := .ext }
  | .sixtyFour => { e with cnt := some 8#4, phase := .ext }

/-- R192. -/
def Enc.afterExt (offer : Nat) (e : Enc) : Enc :=
  let cnt := e.cntV offer - 1#4
  if cnt = 0#4 then Enc.afterLen offer { e with cnt := some cnt } else { e with cnt := some cnt }

/-- R193. -/
def Enc.afterKeyByte (offer : Nat) (e : Enc) : Enc :=
  let cnt := e.cntV offer - 1#4
  if cnt = 0#4 then Enc.afterKey offer { e with cnt := some cnt } else { e with cnt := some cnt }

/-- R194. -/
def Enc.afterPay (offer : Nat) (e : Enc) : Enc :=
  let idx := e.idxV offer + 1#64
  { e with idx := some idx, phase := if idx = e.lenV offer then .flush else .pay }

/-! ### The meanings

A meaning is what the step does at its answer; the transfer around it (`encTransfer`, or an edge) takes the answer from the sink. A
row presented by a word of its own has no transfer around it (DESIGN CHOICE, log 30). -/

/-- An accepted `enc_start`; a length above the buffer has no meaning and is refused (R189; 70_reset_and_hazards.md R255, log 18);
while busy the start is ignored (R252). -/
def encBegin (p : EncPorts) (s : State) : Out :=
  if s.enc.phase = .idle then
    (if s.maxPayload < p.len then .refused .encLenAboveMax else .next (s.withEnc (Enc.started p)))
  else .next s

/-- `ENC.START` (R189). -/
def execEncStart (p : EncPorts) (s : State) : Out := encBegin p s

/-- `ENC.HDR0` (R190), at `Ok`. -/
def execEncHdr0 (s : State) : Out :=
  whenEnc .hdr0 s (.next ((s.accept (s.enc.b0 s.offerCount)).withEnc { s.enc with phase := .hdr1 }))

/-- `ENC.HDR1` (R191), at `Ok`. -/
def execEncHdr1 (s : State) : Out :=
  whenEnc .hdr1 s (.next ((s.accept (s.enc.b1 s.offerCount)).withEnc (s.enc.afterB1 s.offerCount)))

/-- `ENC.EXT` (R192), at `Ok`. -/
def execEncExt (s : State) : Out :=
  whenEnc .ext s (.next ((s.accept (s.enc.extOffer s.offerCount)).withEnc (s.enc.afterExt s.offerCount)))

/-- `ENC.KEY` (R193), at `Ok`. -/
def execEncKey (s : State) : Out :=
  whenEnc .key s (.next ((s.accept (s.enc.keyOffer s.offerCount)).withEnc (s.enc.afterKeyByte s.offerCount)))

/-- `ENC.PAY` (R194), at `Ok`; a cell at or above MAX_PAYLOAD does not exist (20_memory.md R66, log 21). -/
def execEncPay (s : State) : Out :=
  whenEnc .pay s
    (if s.enc.idxV s.offerCount < s.maxPayload then
      .next ((s.accept (s.enc.payOffer s.encPbuf s.offerCount)).withEnc (s.enc.afterPay s.offerCount))
     else .fault (.noSuchCell .enc (s.enc.idxV s.offerCount).toNat))

/-- `ENC.FLUSH` (R196), at `Ok`: the result is OK and the bytes of the frame become written (R197). -/
def execEncFlush (s : State) : Out :=
  whenEnc .flush s (.next (s.commit.withEnc { s.enc with res := .ok, phase := .idle }))

/-- `ENC.FAULT` (R201): the raising of `Io(c)` from the busy phase its word names. -/
def execEncFault (ph : BitVec 3) (c : Cause) (s : State) : Out :=
  if 1#3 ≤ ph ∧ ph ≤ 6#3 then
    (if s.enc.phase.code = ph then .next (s.raise .enc (.io c))
     else if s.enc.phase = .idle then .next s
     else .refused .notSelected)
  else .refused .illFormed

/-! ### One transfer, and runs of transfers -/

/-- The step that PHASE names for an `Ok` answer (30_encoding.md R109). -/
def encOkStep (s : State) : Out :=
  match s.enc.phase with
  | .idle => .next s
  | .hdr0 => execEncHdr0 s
  | .hdr1 => execEncHdr1 s
  | .ext => execEncExt s
  | .key => execEncKey s
  | .pay => execEncPay s
  | .flush => execEncFlush s

/-- One sink transfer: the answer is taken, and the step that PHASE and the kind of answer name is done. -/
def encTransfer (a : SnkAnswer) (s : State) : Out :=
  match a.meaning with
  | .ok => encOkStep s.takeReply
  | .fault c => execEncFault s.enc.phase.code c s.takeReply

/-- ENC's transfers over the answers the sink gives, while its phase is one of `go`; when the sink has no more answer, ENC holds
its offer and waits (R202). -/
def encRun (go : EncPhase → Bool) : List SnkAnswer → State → Out
  | [], s => .next s
  | a :: rest, s => if go s.enc.phase then andThen (encTransfer a s) (encRun go rest) else .next s

/-- The encoder is busy (10_state.md R44). -/
def EncPhase.busy (p : EncPhase) : Bool := decide (p ≠ .idle)

/-- The encoder is writing b0 or b1. -/
def EncPhase.inOpening (p : EncPhase) : Bool := decide (p = .hdr0 ∨ p = .hdr1)

/-- The encoder is writing the header. -/
def EncPhase.inHeader (p : EncPhase) : Bool := decide (p = .hdr0 ∨ p = .hdr1 ∨ p = .ext ∨ p = .key)

/-- The encoder is writing the length: b1 and the extended bytes. -/
def EncPhase.inLength (p : EncPhase) : Bool := decide (p = .hdr1 ∨ p = .ext)

end Sys2Proof.Machine
end

