-- ==== Sys2Proof/Machine/Frames.lean ====
section
/-! DEFINITION. The commands, the header forms and the frame opcodes: families CMD, HDR, OPC (42_decode.md R151, 43_encode.md
R181, 30_encoding.md R94, R100, R101; log 9, log 15). Each is the run of the unit's steps over the bytes of its row. -/

namespace Sys2Proof.Machine

/-! ### Commands -/

/-- `DECODE` (R151): `dec_start`, then DEC runs until it is IDLE or the source gives no answer (R111 (3), R168). -/
def execDecode (s : State) : Out :=
  if s.dec.phase = .idle then decRun DecPhase.busy s.src.answers (s.withDec Dec.started) else .next s

/-- `ENCODE` (R181): the Frame is presented, `enc_start`, then ENC runs until it is IDLE or the sink gives no answer (R111 (3),
R199). -/
def execEncode (p : EncPorts) (s : State) : Out :=
  if s.enc.phase = .idle then andThen (encBegin p s) (encRun EncPhase.busy s.snk.answers) else .next s

/-! ### Headers -/

/-- DEC takes b0 and b1, given by the source (R161, R162). -/
def takeOpening (b0 b1 : Byte) (s : State) : Out :=
  whenDec .hdr0 s (andThen (execDecHdr0 b0 (s.bytesGiven 2)) (execDecHdr1 b1))

/-- DEC takes a whole header: b0, b1, then the extended length and the key from the source (R90, R94). -/
def takeHeader (b0 b1 : Byte) (s : State) : Out :=
  whenDec .hdr0 s (andThen (takeOpening b0 b1 s) (decRun DecPhase.inHeaderTail s.src.answers))

/-- ENC writes the part of the header that `go` names, when the opening bytes it offers are b0 and b1 (R182; log 9, log 13). -/
def putHeader (go : EncPhase → Bool) (b0 b1 : Byte) (s : State) : Out :=
  whenEnc .hdr0 s
    (if s.enc.b0 s.offerCount = b0 ∧ s.enc.b1 (s.offerCount + 1) = b1 then encRun go s.snk.answers s else .refused .notSelected)

/-- A header form on either side (R94). -/
def headerOn (side : Side) (f : FirstByte) (b1 : Byte) (s : State) : Out :=
  match side with
  | .dec => takeHeader f.toByte b1 s
  | .enc => putHeader EncPhase.inHeader f.toByte b1 s

/-- The two opening bytes on either side, seen by their opcode (R100, R101). -/
def openingOn (side : Side) (f : FirstByte) (b1 : Byte) (s : State) : Out :=
  match side with
  | .dec => takeOpening f.toByte b1 s
  | .enc => putHeader EncPhase.inOpening f.toByte b1 s

/-- `HDR.S` (R94): MASK 0, length7 0 to 125. -/
def execHdrS (side : Side) (f : FirstByte) (l7 : BitVec 7) (s : State) : Out :=
  if l7 ≤ 125#7 then headerOn side f (secondByte false l7) s else .refused .illFormed

/-- `HDR.SM` (R94): MASK 1, length7 0 to 125, a key. -/
def execHdrSM (side : Side) (f : FirstByte) (l7 : BitVec 7) (s : State) : Out :=
  if l7 ≤ 125#7 then headerOn side f (secondByte true l7) s else .refused .illFormed

/-- `HDR.E16` (R94): MASK 0, 2 extended bytes. -/
def execHdrE16 (side : Side) (f : FirstByte) (s : State) : Out := headerOn side f 0x7E#8 s

/-- `HDR.E16M` (R94): MASK 1, 2 extended bytes, a key. -/
def execHdrE16M (side : Side) (f : FirstByte) (s : State) : Out := headerOn side f 0xFE#8 s

/-- `HDR.E64` (R94): MASK 0, 8 extended bytes. -/
def execHdrE64 (side : Side) (f : FirstByte) (s : State) : Out := headerOn side f 0x7F#8 s

/-- `HDR.E64M` (R94): MASK 1, 8 extended bytes, a key. -/
def execHdrE64M (side : Side) (f : FirstByte) (s : State) : Out := headerOn side f 0xFF#8 s

/-! ### Frame opcodes (R101): carried, never interpreted (R100) -/

/-- `CONT` (R101): opcode value 0. -/
def execOpCont (side : Side) (fin : Bool) (rsv : BitVec 3) (b1 : Byte) (s : State) : Out :=
  openingOn side ⟨fin, rsv, 0#4⟩ b1 s

/-- `TEXT` (R101): opcode value 1. -/
def execOpText (side : Side) (fin : Bool) (rsv : BitVec 3) (b1 : Byte) (s : State) : Out :=
  openingOn side ⟨fin, rsv, 1#4⟩ b1 s

/-- `BIN` (R101): opcode value 2. -/
def execOpBin (side : Side) (fin : Bool) (rsv : BitVec 3) (b1 : Byte) (s : State) : Out :=
  openingOn side ⟨fin, rsv, 2#4⟩ b1 s

/-- `RSVD3` (R101): opcode value 3. -/
def execOpRsvd3 (side : Side) (fin : Bool) (rsv : BitVec 3) (b1 : Byte) (s : State) : Out :=
  openingOn side ⟨fin, rsv, 3#4⟩ b1 s

/-- `RSVD4` (R101): opcode value 4. -/
def execOpRsvd4 (side : Side) (fin : Bool) (rsv : BitVec 3) (b1 : Byte) (s : State) : Out :=
  openingOn side ⟨fin, rsv, 4#4⟩ b1 s

/-- `RSVD5` (R101): opcode value 5. -/
def execOpRsvd5 (side : Side) (fin : Bool) (rsv : BitVec 3) (b1 : Byte) (s : State) : Out :=
  openingOn side ⟨fin, rsv, 5#4⟩ b1 s

/-- `RSVD6` (R101): opcode value 6. -/
def execOpRsvd6 (side : Side) (fin : Bool) (rsv : BitVec 3) (b1 : Byte) (s : State) : Out :=
  openingOn side ⟨fin, rsv, 6#4⟩ b1 s

/-- `RSVD7` (R101): opcode value 7. -/
def execOpRsvd7 (side : Side) (fin : Bool) (rsv : BitVec 3) (b1 : Byte) (s : State) : Out :=
  openingOn side ⟨fin, rsv, 7#4⟩ b1 s

/-- `CLOSE` (R101): opcode value 8. -/
def execOpClose (side : Side) (fin : Bool) (rsv : BitVec 3) (b1 : Byte) (s : State) : Out :=
  openingOn side ⟨fin, rsv, 8#4⟩ b1 s

/-- `PING` (R101): opcode value 9. -/
def execOpPing (side : Side) (fin : Bool) (rsv : BitVec 3) (b1 : Byte) (s : State) : Out :=
  openingOn side ⟨fin, rsv, 9#4⟩ b1 s

/-- `PONG` (R101): opcode value 10. -/
def execOpPong (side : Side) (fin : Bool) (rsv : BitVec 3) (b1 : Byte) (s : State) : Out :=
  openingOn side ⟨fin, rsv, 10#4⟩ b1 s

/-- `RSVD11` (R101): opcode value 11. -/
def execOpRsvd11 (side : Side) (fin : Bool) (rsv : BitVec 3) (b1 : Byte) (s : State) : Out :=
  openingOn side ⟨fin, rsv, 11#4⟩ b1 s

/-- `RSVD12` (R101): opcode value 12. -/
def execOpRsvd12 (side : Side) (fin : Bool) (rsv : BitVec 3) (b1 : Byte) (s : State) : Out :=
  openingOn side ⟨fin, rsv, 12#4⟩ b1 s

/-- `RSVD13` (R101): opcode value 13. -/
def execOpRsvd13 (side : Side) (fin : Bool) (rsv : BitVec 3) (b1 : Byte) (s : State) : Out :=
  openingOn side ⟨fin, rsv, 13#4⟩ b1 s

/-- `RSVD14` (R101): opcode value 14. -/
def execOpRsvd14 (side : Side) (fin : Bool) (rsv : BitVec 3) (b1 : Byte) (s : State) : Out :=
  openingOn side ⟨fin, rsv, 14#4⟩ b1 s

/-- `RSVD15` (R101): opcode value 15. -/
def execOpRsvd15 (side : Side) (fin : Bool) (rsv : BitVec 3) (b1 : Byte) (s : State) : Out :=
  openingOn side ⟨fin, rsv, 15#4⟩ b1 s

end Sys2Proof.Machine
end

