-- ==== Sys2Proof/Machine/Length.lean ====
section
/-! DEFINITION. The sub-operations of the length family, rows LEN.* of format SUB (40_length.md R121 to R129). A sub-operation
whose rule reads or writes bytes is the run of the unit's steps over those bytes, b1 first (R112: "read on decode, written on
encode"); LEN.CHK and LEN.TIER move no byte (log 10). -/

namespace Sys2Proof.Machine

/-- DEC takes b1, given by the source, and the extended bytes it announces: the whole payload length (R120 to R123), ending with
the check of R124. -/
def takeLength (b1 : Byte) (s : State) : Out :=
  whenDec .hdr1 s
    (andThen (execDecHdr1 b1 (s.bytesGiven 1)) (decRun (fun p => decide (p = .ext)) s.src.answers))

/-- ENC writes b1, when it offers that byte, and the extended bytes of its tier (R127 to R129). -/
def putLength (b1 : Byte) (s : State) : Out :=
  whenEnc .hdr1 s
    (if s.enc.b1 s.offerCount = b1 then encRun EncPhase.inLength s.snk.answers s else .refused .notSelected)

/-- `LEN.D7` (R121). -/
def execLenD7 (m : Bool) (l7 : BitVec 7) (s : State) : Out :=
  if l7 ≤ 125#7 then takeLength (secondByte m l7) s else .refused .illFormed

/-- `LEN.D16` (R122). -/
def execLenD16 (m : Bool) (s : State) : Out := takeLength (secondByte m 126#7) s

/-- `LEN.D64` (R123). -/
def execLenD64 (m : Bool) (s : State) : Out := takeLength (secondByte m 127#7) s

/-- DEC.LEN holds a complete length: one has been written, and no extended byte of it is still to come (R124: "the step that
completes the length"; log 12). -/
def Dec.lengthComplete (d : Dec) : Bool :=
  d.phase.busy && d.len.isSome && (decide (d.phase ≠ .ext) || decide (d.cnt = some 0#4))

/-- `LEN.CHK` (R124): the row's word is b1 of any tier and takes no part in the check (DESIGN CHOICE, log 34). Without a complete
length, IDLE included, it is refused (log 12). -/
def execLenChk (_m : Bool) (_l7 : BitVec 7) (s : State) : Out :=
  if s.dec.lengthComplete then
    .next (if overLong s.maxPayload (s.dec.lenV s.tick) then s.raise .dec .lengthOverflow else s)
  else .refused .notSelected

/-- `LEN.TIER` (R126): the tier of ENC.LEN, kept as the number of extended bytes in ENC.CNT (DESIGN CHOICE, log 11). Outside
ENC.HDR1, IDLE included, it is refused (DESIGN CHOICE, log 31). The row's word is not compared with the frame's b1 (DESIGN CHOICE,
log 34). -/
def execLenTier (_m : Bool) (_l7 : BitVec 7) (s : State) : Out :=
  if s.enc.phase = .hdr1 then
    .next (s.withEnc { s.enc with cnt := some (tierOf (s.enc.lenV s.offerCount)).extBytes })
  else .refused .notSelected

/-- `LEN.E7` (R127). -/
def execLenE7 (m : Bool) (l7 : BitVec 7) (s : State) : Out :=
  if l7 ≤ 125#7 then putLength (secondByte m l7) s else .refused .illFormed

/-- `LEN.E16` (R128). -/
def execLenE16 (m : Bool) (s : State) : Out := putLength (secondByte m 126#7) s

/-- `LEN.E64` (R129). -/
def execLenE64 (m : Bool) (s : State) : Out := putLength (secondByte m 127#7) s

end Sys2Proof.Machine
end

