-- ==== Sys2Proof/Machine/Mask.lean ====
section
/-! DEFINITION. The sub-operations of the mask family, rows MASK.* of format SUB (41_mask.md R141 to R143; log 10). -/

namespace Sys2Proof.Machine

/-- `MASK.KEY` (R141): the unit stands at the first key byte and reads, or writes, all four. Elsewhere (another phase, IDLE
included, or CNT not 4) it is refused (DESIGN CHOICE, log 31). The row's length7 is not compared with the frame's (DESIGN CHOICE,
log 34). -/
def execMaskKey (side : Side) (_l7 : BitVec 7) (s : State) : Out :=
  match side with
  | .dec =>
    if s.dec.phase = .key ∧ s.dec.cnt = some 4#4 then decRun (fun p => decide (p = .key)) s.src.answers s
    else .refused .notSelected
  | .enc =>
    if s.enc.phase = .key ∧ s.enc.cnt = some 4#4 then encRun (fun p => decide (p = .key)) s.snk.answers s
    else .refused .notSelected

/-- One payload byte of a unit whose MASKED register is `m`: one transfer, if the stream answers (R142, R143). Outside PAY, IDLE
included, or with the other MASKED it is refused (DESIGN CHOICE, log 31). -/
def payloadByteOn (side : Side) (m : Bool) (s : State) : Out :=
  match side with
  | .dec =>
    if s.dec.phase = .pay ∧ s.dec.masked = some m then
      (match s.src.answers with
       | [] => .next s
       | a :: _ => decTransfer a s)
    else .refused .notSelected
  | .enc =>
    if s.enc.phase = .pay ∧ s.enc.masked = some m then
      (match s.snk.answers with
       | [] => .next s
       | a :: _ => encTransfer a s)
    else .refused .notSelected

/-- `MASK.XOR` (R142): the next payload byte of a masked frame. The row's length7 is not compared with the frame's (DESIGN CHOICE,
log 34). -/
def execMaskXor (side : Side) (_l7 : BitVec 7) (s : State) : Out := payloadByteOn side true s

/-- `MASK.PASS` (R143): the next payload byte of an unmasked frame. The row's length7 is not compared with the frame's (DESIGN
CHOICE, log 34). -/
def execMaskPass (side : Side) (_l7 : BitVec 7) (s : State) : Out := payloadByteOn side false s

end Sys2Proof.Machine
end

