-- ==== Sys2Proof/Machine/Dispatch.lean ====
section
/-! DEFINITION. One arm per row of opcode_table.json: the meaning of every instruction. -/

namespace Sys2Proof.Machine

open Host

def exec (i : Instr) (s : State) : Host.Outcome State Fault Refusal :=
  match i with
  | .decode => Sys2Proof.Machine.execDecode s
  | .encode p => Sys2Proof.Machine.execEncode p s
  | .hdrS side f l7 => Sys2Proof.Machine.execHdrS side f l7 s
  | .hdrSM side f l7 => Sys2Proof.Machine.execHdrSM side f l7 s
  | .hdrE16 side f => Sys2Proof.Machine.execHdrE16 side f s
  | .hdrE16M side f => Sys2Proof.Machine.execHdrE16M side f s
  | .hdrE64 side f => Sys2Proof.Machine.execHdrE64 side f s
  | .hdrE64M side f => Sys2Proof.Machine.execHdrE64M side f s
  | .opCont side fin rsv b1 => Sys2Proof.Machine.execOpCont side fin rsv b1 s
  | .opText side fin rsv b1 => Sys2Proof.Machine.execOpText side fin rsv b1 s
  | .opBin side fin rsv b1 => Sys2Proof.Machine.execOpBin side fin rsv b1 s
  | .opRsvd3 side fin rsv b1 => Sys2Proof.Machine.execOpRsvd3 side fin rsv b1 s
  | .opRsvd4 side fin rsv b1 => Sys2Proof.Machine.execOpRsvd4 side fin rsv b1 s
  | .opRsvd5 side fin rsv b1 => Sys2Proof.Machine.execOpRsvd5 side fin rsv b1 s
  | .opRsvd6 side fin rsv b1 => Sys2Proof.Machine.execOpRsvd6 side fin rsv b1 s
  | .opRsvd7 side fin rsv b1 => Sys2Proof.Machine.execOpRsvd7 side fin rsv b1 s
  | .opClose side fin rsv b1 => Sys2Proof.Machine.execOpClose side fin rsv b1 s
  | .opPing side fin rsv b1 => Sys2Proof.Machine.execOpPing side fin rsv b1 s
  | .opPong side fin rsv b1 => Sys2Proof.Machine.execOpPong side fin rsv b1 s
  | .opRsvd11 side fin rsv b1 => Sys2Proof.Machine.execOpRsvd11 side fin rsv b1 s
  | .opRsvd12 side fin rsv b1 => Sys2Proof.Machine.execOpRsvd12 side fin rsv b1 s
  | .opRsvd13 side fin rsv b1 => Sys2Proof.Machine.execOpRsvd13 side fin rsv b1 s
  | .opRsvd14 side fin rsv b1 => Sys2Proof.Machine.execOpRsvd14 side fin rsv b1 s
  | .opRsvd15 side fin rsv b1 => Sys2Proof.Machine.execOpRsvd15 side fin rsv b1 s
  | .decStart => Sys2Proof.Machine.execDecStart s
  | .decHdr0 v => Sys2Proof.Machine.execDecHdr0 v s
  | .decHdr1 v => Sys2Proof.Machine.execDecHdr1 v s
  | .decExt v => Sys2Proof.Machine.execDecExt v s
  | .decKey v => Sys2Proof.Machine.execDecKey v s
  | .decPay v => Sys2Proof.Machine.execDecPay v s
  | .decEos ph => Sys2Proof.Machine.execDecEos ph s
  | .decFault ph c => Sys2Proof.Machine.execDecFault ph c s
  | .encStart p => Sys2Proof.Machine.execEncStart p s
  | .encHdr0 => Sys2Proof.Machine.execEncHdr0 s
  | .encHdr1 => Sys2Proof.Machine.execEncHdr1 s
  | .encExt => Sys2Proof.Machine.execEncExt s
  | .encKey => Sys2Proof.Machine.execEncKey s
  | .encPay => Sys2Proof.Machine.execEncPay s
  | .encFlush => Sys2Proof.Machine.execEncFlush s
  | .encFault ph c => Sys2Proof.Machine.execEncFault ph c s
  | .lenD7 m l7 => Sys2Proof.Machine.execLenD7 m l7 s
  | .lenD16 m => Sys2Proof.Machine.execLenD16 m s
  | .lenD64 m => Sys2Proof.Machine.execLenD64 m s
  | .lenChk m l7 => Sys2Proof.Machine.execLenChk m l7 s
  | .lenTier m l7 => Sys2Proof.Machine.execLenTier m l7 s
  | .lenE7 m l7 => Sys2Proof.Machine.execLenE7 m l7 s
  | .lenE16 m => Sys2Proof.Machine.execLenE16 m s
  | .lenE64 m => Sys2Proof.Machine.execLenE64 m s
  | .maskKey side l7 => Sys2Proof.Machine.execMaskKey side l7 s
  | .maskXor side l7 => Sys2Proof.Machine.execMaskXor side l7 s
  | .maskPass side l7 => Sys2Proof.Machine.execMaskPass side l7 s

end Sys2Proof.Machine
end

