-- ==== Sys2Proof/Machine/Ports.lean ====
section
/-! DEFINITION. The output ports (10_state.md R49 to R51): each shows its register's current value, or no value (R22, R54). -/

namespace Sys2Proof.Machine

def Dec.busyOut (d : Dec) : Bool := d.phase.busy
/-- Equal to `dec_busy` (R49). -/
def Dec.srcReq (d : Dec) : Bool := d.phase.busy
def Dec.resOut (d : Dec) : BitVec 3 := d.res.code
/-- Valid exactly when RES is IO (R33). -/
def Dec.causeOut (d : Dec) : Option Cause := if d.res = .io then d.cause else none
/-- The Frame registers are valid exactly when RES is OK (10_state.md section 2, R54 item 1). -/
def Dec.whenOk {α : Type} (d : Dec) (r : Option α) : Option α := if d.res = .ok then r else none
def Dec.finOut (d : Dec) : Option Bool := d.whenOk d.fin
def Dec.opcodeOut (d : Dec) : Option (BitVec 4) := d.whenOk d.opc
def Dec.maskedOut (d : Dec) : Option Bool := d.whenOk d.masked
/-- Valid exactly when RES is OK and MASKED is 1 (10_state.md section 2). -/
def Dec.keyOut (d : Dec) : Option (BitVec 32) := if d.masked = some true then d.whenOk d.key.toPort else none
def Dec.lenOut (d : Dec) : Option Len := d.whenOk d.len
/-- `MemRead(DEC.PBUF, dec_pb_addr, 1)`; no value at or above DEC.LEN, or when RES is not OK (R49, R66). -/
def Dec.pbDataOut (d : Dec) (addr : Len) : Option Byte :=
  match d.len with
  | some n => if addr < n then d.whenOk (d.pbuf.read addr.toNat) else none
  | none => none

def Enc.busyOut (e : Enc) : Bool := e.phase.busy
/-- Equal to `enc_busy` (R50). -/
def Enc.snkReq (e : Enc) : Bool := e.phase.busy
/-- The transfer offered is the flush (R50); 0 while IDLE, when no transfer is offered (DESIGN CHOICE, log 33). -/
def Enc.snkFlush (e : Enc) : Bool := decide (e.phase = .flush)
def Enc.resOut (e : Enc) : BitVec 3 := e.res.code
/-- Valid exactly when RES is IO (R46). -/
def Enc.causeOut (e : Enc) : Option Cause := if e.res = .io then e.cause else none
/-- `ENC.IDX` while PHASE is PAY; no meaning otherwise (R50). -/
def Enc.pbAddrOut (e : Enc) : Option Len := if e.phase = .pay then e.idx else none

/-- `snk_data`: the byte offered, held while the sink does not answer and accepted at its `Ok` (R50; `State.offerCount`); R190 to
R194 say which. No meaning when the flush is offered (R50), and no value while IDLE, when no transfer is offered (DESIGN CHOICE,
log 33). -/
def State.snkData (s : State) : Option Byte :=
  match s.enc.phase with
  | .idle => none
  | .hdr0 => some (s.enc.b0 s.offerCount)
  | .hdr1 => some (s.enc.b1 s.offerCount)
  | .ext => some (s.enc.extOffer s.offerCount)
  | .key => some (s.enc.keyOffer s.offerCount)
  | .pay => some (s.enc.payOffer s.encPbuf s.offerCount)
  | .flush => none

/-- Whether an output port has a value for the caller (R22, R253). -/
def State.portHasValue (s : State) : OutPort → Bool
  | .decBusy => true
  | .decRes => true
  | .decCause => s.dec.causeOut.isSome
  | .decFin => s.dec.finOut.isSome
  | .decOpcode => s.dec.opcodeOut.isSome
  | .decMasked => s.dec.maskedOut.isSome
  | .decKey => s.dec.keyOut.isSome
  | .decLen => s.dec.lenOut.isSome
  | .decPbData addr => (s.dec.pbDataOut addr).isSome
  | .encBusy => true
  | .encRes => true
  | .encCause => s.enc.causeOut.isSome

end Sys2Proof.Machine
end

