-- ==== Sys2Proof/Machine/Present.lean ====
section
/-! DEFINITION. What is presented to the block: how an edge's wires and a unit's PHASE select a step (30_encoding.md R109;
20_memory.md R62, R65), the caller's writes and reads (70_reset_and_hazards.md R250, R253, R254), and the placing of a table word. -/

namespace Sys2Proof.Machine

/-! ### The step a unit's PHASE selects -/

/-- The row of DSTEP that PHASE and the answer's kind name; none while IDLE (R109, R172). -/
def decInstr (ph : DecPhase) (a : Answer) : Option Instr :=
  match ph with
  | .idle => none
  | .hdr0 => some (match a with | .data v => .decHdr0 v | .eos => .decEos ph.code | .fault c => .decFault ph.code c)
  | .hdr1 => some (match a with | .data v => .decHdr1 v | .eos => .decEos ph.code | .fault c => .decFault ph.code c)
  | .ext => some (match a with | .data v => .decExt v | .eos => .decEos ph.code | .fault c => .decFault ph.code c)
  | .key => some (match a with | .data v => .decKey v | .eos => .decEos ph.code | .fault c => .decFault ph.code c)
  | .pay => some (match a with | .data v => .decPay v | .eos => .decEos ph.code | .fault c => .decFault ph.code c)

/-- The row of ESTEP that PHASE and the answer's kind name; none while IDLE (R109, R202). -/
def encInstr (ph : EncPhase) (r : SinkReply) : Option Instr :=
  match ph with
  | .idle => none
  | .hdr0 => some (match r with | .ok => .encHdr0 | .fault c => .encFault ph.code c)
  | .hdr1 => some (match r with | .ok => .encHdr1 | .fault c => .encFault ph.code c)
  | .ext => some (match r with | .ok => .encExt | .fault c => .encFault ph.code c)
  | .key => some (match r with | .ok => .encKey | .fault c => .encFault ph.code c)
  | .pay => some (match r with | .ok => .encPay | .fault c => .encFault ph.code c)
  | .flush => some (match r with | .ok => .encFlush | .fault c => .encFault ph.code c)

/-- What DEC does at an edge: IDLE, it accepts a start; busy, it makes a transfer when the source answers (R49, R160). A source
with nothing left to answer does not answer (log 6). -/
def decSelect (w : Edge) (s : State) : Option (Instr × State) :=
  if s.dec.phase = .idle then
    (if w.decStart then some (.decStart, s) else none)
  else if w.srcAck then
    match s.src.answers with
    | [] => none
    | a :: _ =>
      match decInstr s.dec.phase a.meaning with
      | none => none
      | some i => some (i, s.takeAnswer a)
  else none

/-- What ENC does at an edge (R50, R189). -/
def encSelect (w : Edge) (s : State) : Option (Instr × State) :=
  if s.enc.phase = .idle then
    (if w.encStart then some (.encStart w.encPorts, s) else none)
  else if w.snkAck then
    match s.snk.answers with
    | [] => none
    | a :: _ =>
      match encInstr s.enc.phase a.meaning with
      | none => none
      | some i => some (i, s.takeReply)
  else none

/-! ### The caller -/

/-- The caller writes a cell of ENC.PBUF (10_state.md R41): refused for a cell of the running ENCODE (R254, log 19). -/
def callerWriteStep (a : Nat) (v : Byte) (s : State) : Out :=
  if s.maxPayload.toNat ≤ a then .fault (.noSuchCell .enc a)
  else if s.enc.phase ≠ .idle ∧ a < (s.enc.lenV s.offerCount).toNat then .refused .pbufWrittenDuringEncode
  else .next { s with encPbuf := s.encPbuf.write a v }

/-- The caller reads an output port: nothing changes, and a port with no value is a fault (R22, R253, log 20). -/
def callerReadStep (p : OutPort) (s : State) : Out :=
  if s.portHasValue p then .next s else .fault (.noValueRead p)

/-- A request has been taken from the agenda. -/
def State.requestTaken (s : State) (rest : List Request) : State := { s with agenda := rest, tick := s.tick + 1 }

/-! ### Placing a table word (log 27) -/

/-- The context in which a word's row runs, for the tables that `tableOfWord` names: the PHASE the row is selected by, with the
registers a step in that phase reads. -/
def wordContext (t : Table) (w : Nat) (s : State) : State :=
  match t with
  | .hdr _ => s.withDec { s.dec with phase := .hdr0 }
  | .opc _ => s.withDec { s.dec with phase := .hdr0 }
  | .dstep (.data _) =>
    match w with
    | 2 => s.withDec { s.dec with phase := .hdr1 }
    | 3 => s.withDec { s.dec with phase := .ext, masked := some false, len := some 0#64, cnt := some 2#4 }
    | 4 => s.withDec { s.dec with phase := .key, masked := some true, len := some 0#64, cnt := some 4#4 }
    | _ => s.withDec { s.dec with phase := .pay, masked := some false, len := some 1#64, idx := some 0#64 }
  | .estep .ok => s.withEnc { s.enc with phase := .flush }
  | .sub (.maskKey _) => s.withDec { s.dec with phase := .key, masked := some true, len := some 0#64, cnt := some 4#4 }
  | .sub (.maskPass _) => s.withDec { s.dec with phase := .pay, masked := some false, len := some 1#64, idx := some 0#64 }
  | .sub _ => s.withDec { s.dec with phase := .hdr1 }
  | _ => s

/-- The word stands first in the agenda, in its row's context; a word of no row is presented as no byte of a table, which step
refuses. -/
def presentWord (nbits w : Nat) (s : State) : State :=
  match tableOfWord nbits w with
  | some t => { wordContext t w s with agenda := .issue t (wordBytes nbits w) :: s.agenda }
  | none => { s with agenda := .issue .cmdDec [] :: s.agenda }

end Sys2Proof.Machine
end

