-- ==== Sys2Proof/Machine/Step.lean ====
section
/-! DEFINITION. One step of the machine: the next request of the agenda is taken (log 7). -/

namespace Sys2Proof.Machine

/-- Run the instruction a unit has selected in this cycle, if any. -/
def runSelected (sel : State → Option (Instr × State)) (s : State) : Out :=
  match sel s with
  | none => .next s
  | some (i, s') => exec i s'

/-- One clock edge: reset wins over everything (70_reset_and_hazards.md R240); otherwise each unit does the one step its PHASE and
its wires select, or nothing (log 16). -/
def edgeStep (w : Edge) (s : State) : Out :=
  if w.rst then .next s.applyReset
  else andThen (runSelected (decSelect w) s) (runSelected (encSelect w))

/-- A word of the opcode table is decoded and its instruction runs. DESIGN CHOICE (log 30): a row of DSTEP or ESTEP run by a word
of its own is one step by itself, its byte and its answer are the word's own, and no stream is asked: neither a source's position
nor its answers move. At an edge and in a run, the transfer moves them before the step. -/
def issueStep (t : Table) (word : List Byte) (s : State) : Out :=
  match decodeIn t word with
  | .ok (i, _) => exec i s
  | .error e => .refused (.undecodable e)

/-- What one request does. -/
def perform (r : Request) (s : State) : Out :=
  match r with
  | .edge w => edgeStep w s
  | .issue t word => issueStep t word s
  | .callerWrite a v => callerWriteStep a v s
  | .callerRead p => callerReadStep p s

/-- One step: with nothing presented nothing changes (70_reset_and_hazards.md R241); otherwise the first request is taken. -/
def step (s : State) : Host.Outcome State Fault Refusal :=
  match s.agenda with
  | [] => .next s
  | r :: rest => perform r (s.requestTaken rest)

/-- `s` with the instruction of a bare table word presented as the next request, in the context its row runs in (log 8, log 27). -/
def State.withFetchWord (s : State) (nbits w : Nat) : State := presentWord nbits w s

end Sys2Proof.Machine
end

