-- ==== Sys2Proof/Machine/Operation.lean ====
section
/-! DEFINITION. The operation level (00_scope.md R12, R15 to R17; 42_decode.md R151; 43_encode.md R181, R182): decode and encode as
functions of the streams' answers, with no registers. The step level is held to it (R168, R199). -/

namespace Sys2Proof.Machine

/-- Four key bytes in wire order (R97). -/
structure Key4 where
  k0 : Byte
  k1 : Byte
  k2 : Byte
  k3 : Byte
  deriving DecidableEq, Repr

/-- The Frame (R12): the key is present exactly when `masked` (90_conflicts.md C9). -/
structure Frame where
  finalFragment : Bool
  opcode        : BitVec 4
  masked        : Bool
  maskKey       : Option Key4
  payload       : List Byte
  deriving DecidableEq, Repr

/-- `mask_key[i mod 4]`. -/
def Key4.at (k : Key4) (i : Nat) : Byte :=
  match i % 4 with
  | 0 => k.k0
  | 1 => k.k1
  | 2 => k.k2
  | _ => k.k3

/-- The key bytes in wire order. -/
def Key4.bytes (k : Key4) : List Byte := [k.k0, k.k1, k.k2, k.k3]

/-- A Frame the hardware can hold: a key exactly when masked, a payload within the buffer (R12, R188). -/
def Frame.fits (max : Len) (f : Frame) : Bool :=
  decide (f.maskKey.isSome = f.masked) && decide (f.payload.length ≤ max.toNat)

/-! ### Decode -/

/-- What reading from the source comes to: a value and the answers left; an error and the answers left; or the source gives no
further answer and the reader waits (R61). -/
inductive Read (α : Type) where
  | done (a : α) (rest : List Answer)
  | failed (e : FrameError) (rest : List Answer)
  | waits
  deriving DecidableEq, Repr

/-- `ReadByte()` (R15). -/
def readByte : List Answer → Read Byte
  | [] => .waits
  | .data v :: rest => .done v rest
  | .eos :: rest => .failed .truncated rest
  | .fault c :: rest => .failed (.io c) rest

/-- Read on with the value read. -/
def Read.andThen {α β : Type} (r : Read α) (k : α → List Answer → Read β) : Read β :=
  match r with
  | .done a rest => k a rest
  | .failed e rest => .failed e rest
  | .waits => .waits

/-- `n` bytes, in wire order. -/
def readBytes : Nat → List Answer → Read (List Byte)
  | 0, as => .done [] as
  | n + 1, as => (readByte as).andThen fun v as => (readBytes n as).andThen fun vs as => .done (v :: vs) as

/-- Bytes as a big-endian number (R67): `be16` of two bytes, `be64` of eight. -/
def beNat (bs : List Byte) : Nat := bs.foldl (fun acc b => acc * 256 + b.toNat) 0

/-- Step 3: the length in the tier that length7 names (R121 to R123). -/
def readLength (l7 : BitVec 7) (as : List Answer) : Read Nat :=
  if l7 ≤ 125#7 then .done l7.toNat as
  else (readBytes (if l7 = 126#7 then 2 else 8) as).andThen fun bs as => .done (beNat bs) as

/-- Step 4: the key, exactly when masked (R141). -/
def readKey (masked : Bool) (as : List Answer) : Read (Option Key4) :=
  if masked then
    (readByte as).andThen fun k0 as => (readByte as).andThen fun k1 as =>
    (readByte as).andThen fun k2 as => (readByte as).andThen fun k3 as => .done (some ⟨k0, k1, k2, k3⟩) as
  else .done none as

/-- `raw ^ mask_key[i mod 4]` when there is a key (R142, R143). -/
def maskWith (key : Option Key4) (i : Nat) (x : Byte) : Byte :=
  match key with
  | some k => x ^^^ k.at i
  | none => x

/-- Step 5: payload bytes `i`, `i + 1`, ... of which `n` remain. -/
def readPayload (key : Option Key4) : Nat → Nat → List Answer → Read (List Byte)
  | _, 0, as => .done [] as
  | i, n + 1, as =>
    (readByte as).andThen fun raw as =>
      (readPayload key (i + 1) n as).andThen fun ps as => .done (maskWith key i raw :: ps) as

/-- `DECODE()` (R151): steps 1 to 7, the overflow check before the key. -/
def opDecode (max : Len) (as : List Answer) : Read Frame :=
  (readByte as).andThen fun b0 as =>
  (readByte as).andThen fun b1 as =>
  (readLength (length7Of b1) as).andThen fun length as =>
  if max.toNat < length then .failed .lengthOverflow as
  else
    (readKey (maskOf b1) as).andThen fun key as =>
    (readPayload key 0 length as).andThen fun payload as =>
    .done ⟨(FirstByte.ofByte b0).fin, (FirstByte.ofByte b0).opc, maskOf b1, key, payload⟩ as

/-! ### Encode -/

/-- `n` as `k` bytes, big-endian (R67, R128, R129). -/
def beBytes (k n : Nat) : List Byte := (List.range k).map fun j => BitVec.ofNat 8 (n >>> (8 * (k - 1 - j)))

/-- The length7 field and the extended bytes of a payload length (R126 to R129). -/
def lengthField (n : Nat) : BitVec 7 × List Byte :=
  if n < 126 then (BitVec.ofNat 7 n, [])
  else if n ≤ 65535 then (126#7, beBytes 2 n)
  else (127#7, beBytes 8 n)

/-- The payload as it stands on the wire from byte `i` on (R99, R142, R143). -/
def maskFrom (key : Option Key4) : Nat → List Byte → List Byte
  | _, [] => []
  | i, x :: xs => maskWith key i x :: maskFrom key (i + 1) xs

/-- The first byte of a frame on the wire (R92). -/
def Frame.b0 (f : Frame) : Byte := FirstByte.toByte ⟨f.finalFragment, 0#3, f.opcode⟩

/-- The second byte of a frame on the wire (R93). -/
def Frame.b1 (f : Frame) : Byte := secondByte f.masked (lengthField f.payload.length).1

/-- The key bytes on the wire (R97). -/
def Frame.keyBytes (f : Frame) : List Byte :=
  match f.maskKey with
  | some k => k.bytes
  | none => []

/-- The header of a frame on the wire (R90). -/
def Frame.header (f : Frame) : List Byte :=
  [f.b0, f.b1] ++ (lengthField f.payload.length).2 ++ f.keyBytes

/-- `EncodeBytes(f)` (R182). -/
def encodeBytes (f : Frame) : List Byte := f.header ++ maskFrom f.maskKey 0 f.payload

/-- What writing to the sink comes to: all accepted; a fault; or the sink gives no further answer and the writer waits. Each with
the bytes accepted, and the answers left. -/
inductive Written where
  | done (accepted : List Byte) (rest : List SinkReply)
  | failed (c : Cause) (accepted : List Byte) (rest : List SinkReply)
  | waits (accepted : List Byte)
  deriving DecidableEq, Repr

/-- A byte has been accepted before what follows. -/
def Written.accepting (v : Byte) : Written → Written
  | .done acc rest => .done (v :: acc) rest
  | .failed c acc rest => .failed c (v :: acc) rest
  | .waits acc => .waits (v :: acc)

/-- `WriteByte` of each byte in turn (R16). -/
def writeBytes : List Byte → List SinkReply → Written
  | [], rs => .done [] rs
  | _ :: _, [] => .waits []
  | v :: vs, .ok :: rest => (writeBytes vs rest).accepting v
  | _ :: _, .fault c :: rest => .failed c [] rest

/-- `SnkFlush()` after the last byte (R64, R196). -/
def Written.thenFlush (w : Written) : Written :=
  match w with
  | .done acc [] => .waits acc
  | .done acc (.ok :: rest) => .done acc rest
  | .done acc (.fault c :: rest) => .failed c acc rest
  | .failed c acc rest => .failed c acc rest
  | .waits acc => .waits acc

/-- `ENCODE(f)` (R181): b0, b1, the extended length, the key and the payload are written in turn, then the flush. -/
def opEncode (f : Frame) (rs : List SinkReply) : Written := (writeBytes (encodeBytes f) rs).thenFlush

/-! ### The Frame that a unit's registers hold -/

/-- The payload in a buffer's cells 0 to `n - 1`, when all of them hold a value. -/
def Memory.payload (m : Memory) (n : Nat) : Option (List Byte) := (List.range n).mapM m.read

/-- The four key registers as a key, when all hold a value. -/
def KeyRegs.key4 (k : KeyRegs) : Option Key4 :=
  match k.k0, k.k1, k.k2, k.k3 with
  | some a, some b, some c, some d => some ⟨a, b, c, d⟩
  | _, _, _, _ => none

/-- The Frame in the decoder's registers (R168). -/
def Dec.frame (d : Dec) : Option Frame :=
  match d.fin, d.opc, d.masked, d.len with
  | some fin, some opc, some masked, some len =>
    match d.pbuf.payload len.toNat with
    | some payload => some ⟨fin, opc, masked, if masked then d.key.key4 else none, payload⟩
    | none => none
  | _, _, _, _ => none

/-- The Frame that the Frame ports and the caller's buffer present to the encoder (R50, R199). -/
def presentedFrame (p : EncPorts) (pbuf : Memory) : Option Frame :=
  match pbuf.payload p.len.toNat with
  | some payload => some ⟨p.fin, p.opcode, p.masked, if p.masked then (KeyRegs.ofPort p.key).key4 else none, payload⟩
  | none => none

end Sys2Proof.Machine
end

