-- ==== Sys2Proof/Safety.lean ====
section
/-! DEFINITION. What counts as a legal state and a safe run, in the terms the statements use (10_state.md R21, R22, R26 to R46;
70_reset_and_hazards.md R263). -/

namespace Sys2Proof.Machine

/-- The Frame registers and the buffer of DEC hold no value (42_decode.md R157). -/
def Dec.FrameUnset (d : Dec) : Prop :=
  d.fin = none ∧ d.opc = none ∧ d.masked = none ∧ d.len = none ∧ d.key = KeyRegs.unset ∧ d.pbuf = []

/-- The key registers of a frame: all four hold a value when it is masked, none when it is not (R27, R40). -/
def KeyRegs.Fits (k : KeyRegs) (masked : Bool) : Prop :=
  if masked then k.key4.isSome = true else k = KeyRegs.unset

/-- The cells of a buffer that hold a value are exactly cells 0 to `n - 1` (R28). -/
def Memory.Filled (m : Memory) (n : Nat) : Prop := m.map Prod.fst = List.range n

/-- DEC between steps: in each phase the registers its step reads hold a value and lie in their ranges (R21, R22, R26, R29, R34);
IDLE, the result says what holds a value (R28, R32, R33). -/
def Dec.Legal (max : Len) (d : Dec) : Prop :=
  match d.phase with
  | .idle =>
    match d.res with
    | .noResult => d = Dec.reset
    | .ok => d.cause = none ∧ d.fin.isSome = true ∧ d.opc.isSome = true ∧
        ∃ n m, d.len = some n ∧ n ≤ max ∧ d.masked = some m ∧ d.key.Fits m ∧ d.pbuf.Filled n.toNat
    | .truncated => d.cause = none ∧ d.FrameUnset
    | .lengthOverflow => d.cause = none ∧ d.FrameUnset
    | .io => d.cause.isSome = true ∧ d.FrameUnset
  | .hdr0 => d = Dec.started
  | .hdr1 => d.res = .noResult ∧ d.cause = none ∧ d.fin.isSome = true ∧ d.opc.isSome = true ∧ d.key = KeyRegs.unset ∧ d.pbuf = []
  | .ext => d.res = .noResult ∧ d.cause = none ∧ d.fin.isSome = true ∧ d.opc.isSome = true ∧ d.key = KeyRegs.unset ∧ d.pbuf = [] ∧
      d.masked.isSome = true ∧
      ∃ n c, d.len = some n ∧ d.cnt = some c ∧ 1#4 ≤ c ∧ c ≤ 8#4 ∧ n.toNat < 2 ^ (8 * (8 - c.toNat))
  | .key => d.res = .noResult ∧ d.cause = none ∧ d.fin.isSome = true ∧ d.opc.isSome = true ∧ d.pbuf = [] ∧ d.masked = some true ∧
      ∃ n c, d.len = some n ∧ n ≤ max ∧ d.cnt = some c ∧ 1#4 ≤ c ∧ c ≤ 4#4 ∧
        ∀ j, j < 4 - c.toNat → (d.key.get j).isSome = true
  | .pay => d.res = .noResult ∧ d.cause = none ∧ d.fin.isSome = true ∧ d.opc.isSome = true ∧
      ∃ n m i, d.len = some n ∧ n ≤ max ∧ d.masked = some m ∧ d.idx = some i ∧ i < n ∧ d.key.Fits m ∧ d.pbuf.Filled i.toNat

/-- The registers an accepted `enc_start` samples, all through an ENCODE (R36 to R40; R255 for the length). -/
def Enc.Sampled (max : Len) (e : Enc) : Prop :=
  e.res = .noResult ∧ e.cause = none ∧ e.fin.isSome = true ∧ e.opc.isSome = true ∧
    ∃ n m, e.len = some n ∧ n ≤ max ∧ e.masked = some m ∧ e.key.Fits m

/-- ENC between steps (R42 to R46); RES is only NONE, OK or IO (43_encode.md R200). Bytes are tentative only while ENC is busy
(43_encode.md R197). -/
def Enc.Legal (max : Len) (tentative : List Byte) (e : Enc) : Prop :=
  match e.phase with
  | .idle => tentative = [] ∧
      match e.res with
      | .noResult => e = Enc.reset
      | .ok => e.cause = none
      | .io => e.cause.isSome = true
      | .truncated => False
      | .lengthOverflow => False
  | .hdr0 => e.Sampled max ∧ tentative = []
  | .hdr1 => e.Sampled max
  | .ext => e.Sampled max ∧ ∃ n c, e.len = some n ∧ 126#64 ≤ n ∧ e.cnt = some c ∧ 1#4 ≤ c ∧ c ≤ 8#4
  | .key => e.Sampled max ∧ e.masked = some true ∧ ∃ c, e.cnt = some c ∧ 1#4 ≤ c ∧ c ≤ 4#4
  | .pay => e.Sampled max ∧ ∃ n i, e.len = some n ∧ e.idx = some i ∧ i < n
  | .flush => e.Sampled max

/-- A state that a run can be in: both units legal, and the caller's buffer in canonical form within its cells (R41, R66). -/
def State.Legal (s : State) : Prop :=
  s.dec.Legal s.maxPayload ∧ s.enc.Legal s.maxPayload s.snk.tentative ∧
    s.encPbuf.wf = true ∧ ∀ c ∈ s.encPbuf, c.1 < s.maxPayload.toNat

/-- The unit an instruction belongs to (10_state.md R20). -/
def unitOf : Instr → Side
  | .decode => .dec
  | .encode _ => .enc
  | .hdrS side _ _ => side
  | .hdrSM side _ _ => side
  | .hdrE16 side _ => side
  | .hdrE16M side _ => side
  | .hdrE64 side _ => side
  | .hdrE64M side _ => side
  | .opCont side _ _ _ => side
  | .opText side _ _ _ => side
  | .opBin side _ _ _ => side
  | .opRsvd3 side _ _ _ => side
  | .opRsvd4 side _ _ _ => side
  | .opRsvd5 side _ _ _ => side
  | .opRsvd6 side _ _ _ => side
  | .opRsvd7 side _ _ _ => side
  | .opClose side _ _ _ => side
  | .opPing side _ _ _ => side
  | .opPong side _ _ _ => side
  | .opRsvd11 side _ _ _ => side
  | .opRsvd12 side _ _ _ => side
  | .opRsvd13 side _ _ _ => side
  | .opRsvd14 side _ _ _ => side
  | .opRsvd15 side _ _ _ => side
  | .decStart => .dec
  | .decHdr0 _ => .dec
  | .decHdr1 _ => .dec
  | .decExt _ => .dec
  | .decKey _ => .dec
  | .decPay _ => .dec
  | .decEos _ => .dec
  | .decFault _ _ => .dec
  | .encStart _ => .enc
  | .encHdr0 => .enc
  | .encHdr1 => .enc
  | .encExt => .enc
  | .encKey => .enc
  | .encPay => .enc
  | .encFlush => .enc
  | .encFault _ _ => .enc
  | .lenD7 _ _ => .dec
  | .lenD16 _ => .dec
  | .lenD64 _ => .dec
  | .lenChk _ _ => .dec
  | .lenTier _ _ => .enc
  | .lenE7 _ _ => .enc
  | .lenE16 _ => .enc
  | .lenE64 _ => .enc
  | .maskKey side _ => side
  | .maskXor side _ => side
  | .maskPass side _ => side

/-- The tables whose words give a start: the two commands and the START step of each unit. -/
def Table.givesStart : Table → Bool
  | .cmdDec => true
  | .cmdEnc _ => true
  | .hdr _ => false
  | .opc _ => false
  | .dstep .start => true
  | .dstep (.data _) => false
  | .dstep .eos => false
  | .dstep (.fault _) => false
  | .estep (.start _) => true
  | .estep .ok => false
  | .estep (.fault _) => false
  | .sub _ => false

/-- A start is presented: on the wires of an edge, or as a word that is a command or a START step. -/
def Request.presentsStart : Request → Bool
  | .edge w => w.decStart || w.encStart
  | .issue t word =>
    match decodeIn t word with
    | .ok (i, _) => Table.givesStart i.table
    | .error _ => false
  | .callerWrite _ _ => false
  | .callerRead _ => false

/-- The run is over: both units IDLE and no start presented (R263); what is presented is the whole agenda (DESIGN CHOICE,
log 32), so caller reads and writes and edges without a start do not keep a run from being over. -/
def State.over (s : State) : Bool :=
  decide (s.dec.phase = .idle) && decide (s.enc.phase = .idle) && s.agenda.all fun r => !r.presentsStart

/-- An operation's result that has gone well (R263). -/
def Result.wentWell (r : Result) : Bool := decide (r = .ok)

/-- An operation's result that is a defined failure (R263). -/
def Result.definedFailure (r : Result) : Bool := decide (r = .truncated ∨ r = .lengthOverflow ∨ r = .io)

end Sys2Proof.Machine
end

