-- ==== Sys2Proof/Certificates/Slice0/Obligations.lean ====
section
/-! DEFINITION. The statements for the provers, and the shapes of the spec's procedures they are written with. -/

namespace Sys2Proof.Spec

open Sys2Proof.Machine

/-! ### The spec's procedures, written out as record updates -/

/-- DecFail(code) (42_decode.md R166). -/
def failed (r : Result) (d : Dec) : Dec :=
  { d with fin := none, opc := none, masked := none, len := none, key := ⟨none, none, none, none⟩, pbuf := [],
           res := r, phase := .idle }

/-- DecAfterKey(len') (R166). -/
def headerEnd (n : Len) (d : Dec) : Dec :=
  if n = 0#64 then { d with idx := some 0#64, res := .ok, phase := .idle }
  else { d with idx := some 0#64, phase := .pay }

/-- DecAfterLen(len', masked') (R166). -/
def lengthEnd (max n : Len) (m : Bool) (d : Dec) : Dec :=
  if max < n then failed .lengthOverflow d
  else if m then { d with cnt := some 4#4, phase := .key }
  else headerEnd n d

/-- EncAfterKey() (43_encode.md R195). -/
def encHeaderEnd (n : Len) (e : Enc) : Enc :=
  { e with idx := some 0#64, phase := if n = 0#64 then .flush else .pay }

/-- EncAfterLen() (R195). -/
def encLengthEnd (n : Len) (m : Bool) (e : Enc) : Enc :=
  if m then { e with cnt := some 4#4, phase := .key } else encHeaderEnd n e

/-- MASK bit of b1, `(b1 & 0x80) != 0`; also FIN of b0. -/
def topBit (b : Byte) : Bool := decide (b &&& 0x80#8 ≠ 0#8)

/-- length7, `b1 & 0x7F`. -/
def low7 (b : Byte) : Nat := (b &&& 0x7F#8).toNat

/-- 0x80 when the bit is set, else 0. -/
def bit7 (m : Bool) : Byte := if m then 0x80#8 else 0#8

/-- The sink after it has accepted bytes of the running ENCODE and used up `k` answers. -/
def accepting (bs : List Byte) (k : Nat) (z : Sink) : Sink :=
  { z with answers := z.answers.drop k, accepted := z.accepted ++ bs, tentative := z.tentative ++ bs }

/-- The header row of R94 for MASK and length7. -/
def headerRow (side : Side) (f : FirstByte) (m : Bool) (l7 : BitVec 7) : Instr :=
  if l7 = 126#7 then (if m then .hdrE16M side f else .hdrE16 side f)
  else if l7 = 127#7 then (if m then .hdrE64M side f else .hdrE64 side f)
  else if m then .hdrSM side f l7 else .hdrS side f l7

/-- The row that reads a length of b1 (R121 to R123). -/
def lenDRow (m : Bool) (l7 : BitVec 7) : Instr :=
  if l7 = 126#7 then .lenD16 m else if l7 = 127#7 then .lenD64 m else .lenD7 m l7

/-- The row that writes a length of b1 (R127 to R129). -/
def lenERow (m : Bool) (l7 : BitVec 7) : Instr :=
  if l7 = 126#7 then .lenE16 m else if l7 = 127#7 then .lenE64 m else .lenE7 m l7

/-- A first byte with another opcode. -/
def withOpcode (o : BitVec 4) (b : Byte) : Byte := (b &&& 0xF0#8) ||| o.setWidth 8

/-- The bytes of a frame, or the first of them, with another opcode. -/
def recode (o : BitVec 4) : List Byte → List Byte
  | [] => []
  | b :: bs => withOpcode o b :: bs

/-- The rows of DEC that begin with a data byte, each with its phase. -/
def decRows (v : Byte) (f : FirstByte) (m : Bool) (l7 : BitVec 7) : List (DecPhase × Instr) :=
  [(.hdr0, .decHdr0 v), (.hdr1, .decHdr1 v), (.ext, .decExt v), (.key, .decKey v), (.pay, .decPay v),
   (.hdr0, headerRow .dec f m l7), (.hdr0, opcodeRow f.opc .dec f.fin f.rsv (secondByte m l7)), (.hdr1, lenDRow m l7)]

/-- The rows of ENC that begin with a byte offered, or the flush, each with its phase. -/
def encRows (f : FirstByte) (m : Bool) (l7 : BitVec 7) : List (EncPhase × Instr) :=
  [(.hdr0, .encHdr0), (.hdr1, .encHdr1), (.ext, .encExt), (.key, .encKey), (.pay, .encPay), (.flush, .encFlush),
   (.hdr0, headerRow .enc f m l7), (.hdr0, opcodeRow f.opc .enc f.fin f.rsv (secondByte m l7)), (.hdr1, lenERow m l7)]

/-- The key file with the four bytes of a key. -/
def keyFile (k : Key4) : KeyRegs := ⟨some k.k0, some k.k1, some k.k2, some k.k3⟩

/-- The bytes that answers give. -/
def given (as : List Answer) : List Byte :=
  as.filterMap fun
    | .data v => some v
    | .eos => none
    | .fault _ => none

/-- A key file after the first key bytes have gone into it: the rest of it is as it was. -/
def keyAfter (bs : List Byte) (old : KeyRegs) : KeyRegs :=
  ⟨bs[0]?.or old.k0, bs[1]?.or old.k1, bs[2]?.or old.k2, bs[3]?.or old.k3⟩

/-- CNT with `k` of `of` bytes read. -/
def left (of k : Nat) : Option (BitVec 4) := some (BitVec.ofNat 4 (of - k))

/-- An error `e` has ended the DECODE of state `s`: CAUSE takes an Io error's cause and otherwise keeps what it held; the source
is at `src`, CNT holds `cnt`. -/
def decodeFailed (s : State) (e : FrameError) (src : Source) (cnt : Option (BitVec 4)) : State :=
  { s with
    src := src,
    dec := failed e.result { s.dec with
      cnt := cnt,
      cause := match e with
        | .io c => some c
        | .truncated => s.dec.cause
        | .lengthOverflow => s.dec.cause } }

/-- The source after `k` of its answers, the last one no `Data`, and `pre` bytes before them. -/
def endedAt (z : Source) (pre k : Nat) : Source := ⟨z.answers.drop k, z.taken + pre + (k - 1)⟩

/-- A fault `c` has ended the ENCODE of state `s` after the sink accepted `acc`: no byte of it is written (R197, R201). -/
def encodeFailed (s : State) (c : Cause) (acc : List Byte) (cnt : Option (BitVec 4)) : State :=
  { s with
    snk := { s.snk with
      answers := s.snk.answers.drop (acc.length + 1), accepted := s.snk.accepted ++ acc, tentative := [],
      abandoned := s.snk.abandoned ++ [s.snk.tentative ++ acc] },
    enc := { s.enc with res := .io, cause := some c, phase := .idle, cnt := cnt } }

/-- The sink has accepted `acc` and gives no further answer: ENC waits in a phase. -/
def encodeWaits (s : State) (acc : List Byte) (ph : EncPhase) (cnt : Option (BitVec 4)) : State :=
  { s with
    snk := { s.snk with answers := [], accepted := s.snk.accepted ++ acc, tentative := s.snk.tentative ++ acc },
    enc := { s.enc with phase := ph, cnt := cnt } }

/-- The phase in which ENC offers byte `j` of a header with `x` extended bytes. -/
def phaseAt (x j : Nat) : EncPhase :=
  if j = 0 then .hdr0 else if j = 1 then .hdr1 else if j < 2 + x then .ext else .key

/-- What CNT holds in that phase: the bytes of the length or the key still to write; before them, what it held. -/
def cntAt (x j : Nat) (old : Option (BitVec 4)) : Option (BitVec 4) :=
  if j < 2 then old else if j < 2 + x then left (2 + x) j else left (6 + x) j

/-- Row `i` takes a b1 with MASK `m` and reads a length of `k` extended bytes (R122, R123, R125). -/
def ReadsLength (i : Instr) (m : Bool) (k : Nat) : Prop :=
  ∀ s : State, s.dec.phase = .hdr1 →
    let as := s.src.answers.map SrcAnswer.meaning
    exec i s = .next (
      match readBytes k as with
      | .done bs _ => { s with
          src := ⟨s.src.answers.drop k, s.src.taken + 1 + k⟩,
          dec := lengthEnd s.maxPayload (BitVec.ofNat 64 (beNat bs)) m
            { s.dec with masked := some m, len := some (BitVec.ofNat 64 (beNat bs)), cnt := some 0#4 } }
      | .failed e rest =>
        decodeFailed s e (endedAt s.src 1 (as.length - rest.length)) (left k (as.length - rest.length - 1))
      | .waits => { s with
          src := ⟨[], s.src.taken + 1 + as.length⟩,
          dec := { s.dec with
            masked := some m, len := some (BitVec.ofNat 64 (beNat (given as))), cnt := left k as.length, phase := .ext } })

/-- Row `i` writes the length bytes `bs` of a payload of `n` bytes, then the length is at its end (R127 to R129, R195). -/
def WritesLength (i : Instr) (s : State) (m : Bool) (n : Len) (bs : List Byte) : Prop :=
  exec i s = .next (
    match writeBytes bs (s.snk.answers.map SnkAnswer.meaning) with
    | .done _ _ => { s with
        snk := accepting bs bs.length s.snk,
        enc := encLengthEnd n m { s.enc with cnt := if bs.length = 1 then s.enc.cnt else some 0#4 } }
    | .failed c acc _ => encodeFailed s c acc (cntAt (bs.length - 1) (1 + acc.length) s.enc.cnt)
    | .waits acc =>
      encodeWaits s acc (phaseAt (bs.length - 1) (1 + acc.length)) (cntAt (bs.length - 1) (1 + acc.length) s.enc.cnt))

/-- Row `i` moves one payload byte into DEC, unmasked with the key when MASKED is `m = 1` (R142, R143, R165). -/
def ReadsPayloadByte (i : Instr) (m : Bool) : Prop :=
  ∀ (s : State) (n ix : Len) (k : Byte), s.dec.phase = .pay → s.dec.masked = some m → s.dec.len = some n → s.dec.idx = some ix →
    ix < n → n ≤ s.maxPayload → (m = true → s.dec.key.get (ix.toNat % 4) = some k) →
    match s.src.answers with
    | [] => exec i s = .next s
    | a :: as =>
      match a.meaning with
      | .data x => ∃ t, exec i s = .next t ∧
          t.dec.pbuf.read ix.toNat = some (if m then x ^^^ k else x) ∧
          (∀ b, b ≠ ix.toNat → t.dec.pbuf.read b = s.dec.pbuf.read b) ∧
          t = { s with
            src := ⟨as, s.src.taken + 1⟩,
            dec := { s.dec with
              pbuf := t.dec.pbuf, idx := some (ix + 1#64),
              res := if ix + 1#64 = n then .ok else s.dec.res,
              phase := if ix + 1#64 = n then .idle else .pay } }
      | .eos => exec i s = .next { s with src := ⟨as, s.src.taken⟩, dec := failed .truncated s.dec }
      | .fault c => exec i s = .next { s with src := ⟨as, s.src.taken⟩, dec := failed .io { s.dec with cause := some c } }

/-- Row `i` moves one payload byte out of ENC, masked with the key when MASKED is `m = 1` (R142, R143, R194). The caller's cell
shows its value, or any byte when it holds none (R255). -/
def WritesPayloadByte (i : Instr) (m : Bool) : Prop :=
  ∀ (s : State) (n ix : Len) (k : Byte), s.enc.phase = .pay → s.enc.masked = some m → s.enc.len = some n → s.enc.idx = some ix →
    ix < n → n ≤ s.maxPayload → (m = true → s.enc.key.get (ix.toNat % 4) = some k) →
    match s.snk.answers with
    | [] => exec i s = .next s
    | a :: as =>
      match a.meaning with
      | .ok => ∃ x, (∀ b, s.encPbuf.read ix.toNat = some b → x = b) ∧
          exec i s = .next { s with
            snk := accepting [if m then x ^^^ k else x] 1 s.snk,
            enc := { s.enc with idx := some (ix + 1#64), phase := if ix + 1#64 = n then .flush else .pay } }
      | .fault c => exec i s = .next { s with
          snk := { s.snk with answers := as, tentative := [], abandoned := s.snk.abandoned ++ [s.snk.tentative] },
          enc := { s.enc with res := .io, cause := some c, phase := .idle } }

end Sys2Proof.Spec

open Sys2Proof Sys2Proof.Machine Sys2Proof.Spec

/-! ## Reset, and what a step does with what is presented -/

/-- 10_state.md R55, 70_reset_and_hazards.md R240: both units after reset, in `State.reset` and at an edge with `rst = 1` whatever
else is presented in that cycle; no transfer happens at that edge, and the caller's buffer is untouched. -/
def Obligations.ResetStateHoldsNoValues : Prop :=
  (∀ t : State, (t = State.reset ∨ ∃ (s : State) (w : Edge) (rest : List Request),
      s.agenda = .edge w :: rest ∧ w.rst = true ∧ step s = .next t) →
    t.dec = ⟨none, none, none, none, ⟨none, none, none, none⟩, [], none, .idle, .noResult, none, none⟩ ∧
    t.enc = ⟨none, none, none, none, ⟨none, none, none, none⟩, none, none, .idle, .noResult, none⟩ ∧
    t.dec.busyOut = false ∧ t.dec.srcReq = false ∧ t.enc.busyOut = false ∧ t.enc.snkReq = false) ∧
  (∀ (s : State) (w : Edge) (rest : List Request), s.agenda = .edge w :: rest → w.rst = true →
    ∃ t, step s = .next t ∧ t.encPbuf = s.encPbuf ∧ t.src = s.src ∧ t.snk.answers = s.snk.answers ∧
      t.snk.accepted = s.snk.accepted)

/-- 70_reset_and_hazards.md R242, 43_encode.md R197: the bytes of an ENCODE that a reset abandons are never written; they go to the
record of abandoned bytes (log 14). Nothing else of the surroundings changes (log 24). -/
def Obligations.ResetEdgeAbandonsOperation : Prop :=
  ∀ (s : State) (w : Edge) (rest : List Request), s.agenda = .edge w :: rest → w.rst = true →
    step s = .next { s with
      agenda := rest, tick := s.tick + 1,
      dec := ⟨none, none, none, none, ⟨none, none, none, none⟩, [], none, .idle, .noResult, none, none⟩,
      enc := ⟨none, none, none, none, ⟨none, none, none, none⟩, none, none, .idle, .noResult, none⟩,
      snk := if s.enc.phase = .idle then s.snk
        else { s.snk with tentative := [], abandoned := s.snk.abandoned ++ [s.snk.tentative] } }

/-- With nothing presented nothing changes; an edge at which neither unit accepts a start or makes a transfer changes nothing:
an IDLE unit ignores an acknowledge, a busy one waits (R62, R172, R202, R241). A run that is over stays over (R263; that the whole
agenda is what is presented is the model's choice, log 32): no stream is touched and no result changes but by a reset. -/
def Obligations.QuietStepChangesNothing : Prop :=
  ∀ s : State,
    (s.agenda = [] → step s = .next s) ∧
    (∀ (w : Edge) (rest : List Request), s.agenda = .edge w :: rest → w.rst = false →
      (if s.dec.phase = .idle then w.decStart = false else (w.srcAck = false ∨ s.src.answers = [])) →
      (if s.enc.phase = .idle then w.encStart = false else (w.snkAck = false ∨ s.snk.answers = [])) →
      step s = .next { s with agenda := rest, tick := s.tick + 1 }) ∧
    (∀ t, s.over = true → step s = .next t →
      t.over = true ∧ t.src = s.src ∧ t.snk = s.snk ∧
        ((t.dec = s.dec ∧ t.enc = s.enc) ∨ (t.dec = Dec.reset ∧ t.enc = Enc.reset)))

/-- The machine runs the instruction that the presented word decodes to in its table, and refuses by name a word that is none.
In any state a bare table word (log 8) is placed so that the very next step runs what it decodes to (the model's choice, log 27);
a bare word that is none is refused. -/
def Obligations.StepRunsIssuedWord : Prop :=
  (∀ (s : State) (t : Table) (word : List Byte) (rest : List Request), s.agenda = .issue t word :: rest →
    (∀ i more, decodeIn t word = .ok (i, more) → step s = exec i { s with agenda := rest, tick := s.tick + 1 }) ∧
    (∀ e, decodeIn t word = .error e → step s = .refused (.undecodable e))) ∧
  (∀ (s : State) (nbits w : Nat),
    (∀ i, decodeTableWord nbits w = some i →
      step (s.withFetchWord nbits w) = exec i { s.withFetchWord nbits w with agenda := s.agenda, tick := s.tick + 1 }) ∧
    (decodeTableWord nbits w = none → ∃ e, step (s.withFetchWord nbits w) = .refused (.undecodable e)))

/-- 30_encoding.md R109, 20_memory.md R62: at an edge DEC performs the step that its PHASE and the kind of the source's answer
name; IDLE, it accepts a start. `src_kind` 0 is Data, 1 is Eos, 2 and the reserved 3 are Fault. The source moves past the answer. -/
def Obligations.EdgeRunsDecoderStepOfPhase : Prop :=
  ∀ (s : State) (w : Edge) (rest : List Request), s.agenda = .edge w :: rest → w.rst = false →
    w.encStart = false → w.snkAck = false →
    (s.dec.phase = .idle → w.decStart = true → step s = exec .decStart { s with agenda := rest, tick := s.tick + 1 }) ∧
    (∀ kind v c as, w.srcAck = true → s.src.answers = ⟨kind, v, c⟩ :: as → s.dec.phase ≠ .idle →
      (kind = 0#2 →
        let s' : State := { s with agenda := rest, tick := s.tick + 1, src := ⟨as, s.src.taken + 1⟩ }
        (s.dec.phase = .hdr0 → step s = exec (.decHdr0 v) s') ∧
        (s.dec.phase = .hdr1 → step s = exec (.decHdr1 v) s') ∧
        (s.dec.phase = .ext → step s = exec (.decExt v) s') ∧
        (s.dec.phase = .key → step s = exec (.decKey v) s') ∧
        (s.dec.phase = .pay → step s = exec (.decPay v) s')) ∧
      (kind = 1#2 →
        step s = exec (.decEos s.dec.phase.code) { s with agenda := rest, tick := s.tick + 1, src := ⟨as, s.src.taken⟩ }) ∧
      (kind = 2#2 ∨ kind = 3#2 →
        step s = exec (.decFault s.dec.phase.code c)
          { s with agenda := rest, tick := s.tick + 1, src := ⟨as, s.src.taken⟩ }))

/-- 30_encoding.md R109, 20_memory.md R65: at an edge ENC performs the step that its PHASE and the kind of the sink's answer name;
IDLE, it accepts a start with the Frame ports of that edge. `snk_kind` 0 is Ok, 2 and the reserved 1 and 3 are Fault. At any
edge, whatever DEC does in it, ENC holds its offer while the sink does not answer, a byte with no value (R255) included, and the
byte that the sink accepts is the one `snk_data` shows in that cycle (10_state.md R50). -/
def Obligations.EdgeRunsEncoderStepOfPhase : Prop :=
  (∀ (s t : State) (w : Edge) (rest : List Request), s.agenda = .edge w :: rest → w.rst = false → s.enc.phase ≠ .idle →
    step s = .next t →
    (w.snkAck = false ∨ s.snk.answers = [] →
      t.enc = s.enc ∧ t.snk = s.snk ∧ t.snkData = s.snkData ∧ t.enc.snkFlush = s.enc.snkFlush) ∧
    (∀ a as, w.snkAck = true → s.snk.answers = a :: as → a.meaning = .ok →
      t.snk.accepted = s.snk.accepted ++ s.snkData.toList)) ∧
  ∀ (s : State) (w : Edge) (rest : List Request), s.agenda = .edge w :: rest → w.rst = false →
    w.decStart = false → w.srcAck = false →
    (s.enc.phase = .idle → w.encStart = true →
      step s = exec (.encStart w.encPorts) { s with agenda := rest, tick := s.tick + 1 }) ∧
    (∀ kind c as, w.snkAck = true → s.snk.answers = ⟨kind, c⟩ :: as → s.enc.phase ≠ .idle →
      let s' : State := { s with agenda := rest, tick := s.tick + 1, snk := { s.snk with answers := as } }
      (kind = 0#2 →
        (s.enc.phase = .hdr0 → step s = exec .encHdr0 s') ∧
        (s.enc.phase = .hdr1 → step s = exec .encHdr1 s') ∧
        (s.enc.phase = .ext → step s = exec .encExt s') ∧
        (s.enc.phase = .key → step s = exec .encKey s') ∧
        (s.enc.phase = .pay → step s = exec .encPay s') ∧
        (s.enc.phase = .flush → step s = exec .encFlush s')) ∧
      (kind = 1#2 ∨ kind = 2#2 ∨ kind = 3#2 → step s = exec (.encFault s.enc.phase.code c) s'))

/-- 10_state.md R20, 20_memory.md R80: at one edge the two units do what each would do alone. -/
def Obligations.UnitsDoNotInterfereAtAnEdge : Prop :=
  ∀ (s t1 t2 : State) (w : Edge), w.rst = false →
    edgeStep { w with encStart := false, snkAck := false } s = .next t1 →
    edgeStep { w with decStart := false, srcAck := false } s = .next t2 →
    edgeStep w s = .next { s with dec := t1.dec, src := t1.src, enc := t2.enc, snk := t2.snk }

/-- 10_state.md R20: no instruction of DEC changes anything of ENC, its sink or its buffer, nor the parameter. -/
def Obligations.DecoderInstructionsLeaveEncoder : Prop :=
  ∀ (i : Instr) (s t : State), unitOf i = .dec → exec i s = .next t →
    t.enc = s.enc ∧ t.snk = s.snk ∧ t.encPbuf = s.encPbuf ∧ t.agenda = s.agenda ∧ t.maxPayload = s.maxPayload ∧ t.tick = s.tick

/-- 10_state.md R20, R41: no instruction of ENC changes anything of DEC or its source, nor the caller's buffer or the
parameter. -/
def Obligations.EncoderInstructionsLeaveDecoder : Prop :=
  ∀ (i : Instr) (s t : State), unitOf i = .enc → exec i s = .next t →
    t.dec = s.dec ∧ t.src = s.src ∧ t.encPbuf = s.encPbuf ∧ t.agenda = s.agenda ∧ t.maxPayload = s.maxPayload ∧ t.tick = s.tick

/-! ## The decoder's steps (family DSTEP) -/

/-- 42_decode.md R160. -/
def Obligations.DecStartClearsEveryRegister : Prop :=
  ∀ s : State,
    (s.dec.phase = .idle → exec .decStart s = .next { s with
      dec := ⟨none, none, none, none, ⟨none, none, none, none⟩, [], none, .hdr0, .noResult, none, none⟩ }) ∧
    (s.dec.phase ≠ .idle → exec .decStart s = .next s)

/-- 42_decode.md R161. -/
def Obligations.DecHdr0TakesFinAndOpcode : Prop :=
  ∀ (s : State) (v : Byte), s.dec.phase = .hdr0 →
    exec (.decHdr0 v) s = .next { s with
      dec := { s.dec with fin := some (topBit v), opc := some ((v &&& 0x0F#8).setWidth 4), phase := .hdr1 } }

/-- 42_decode.md R162, with the header-end procedures of R166. -/
def Obligations.DecHdr1ChoosesTier : Prop :=
  ∀ (s : State) (v : Byte), s.dec.phase = .hdr1 →
    exec (.decHdr1 v) s = .next { s with
      dec :=
        if low7 v ≤ 125 then
          lengthEnd s.maxPayload (BitVec.ofNat 64 (low7 v)) (topBit v)
            { s.dec with masked := some (topBit v), len := some (BitVec.ofNat 64 (low7 v)) }
        else if low7 v = 126 then
          { s.dec with masked := some (topBit v), len := some 0#64, cnt := some 2#4, phase := .ext }
        else
          { s.dec with masked := some (topBit v), len := some 0#64, cnt := some 8#4, phase := .ext } }

/-- 42_decode.md R163, with the header-end procedures of R166. -/
def Obligations.DecExtShiftsLength : Prop :=
  ∀ (s : State) (v : Byte) (n : Len) (c : BitVec 4) (m : Bool), s.dec.phase = .ext → s.dec.len = some n → s.dec.cnt = some c →
    s.dec.masked = some m →
    exec (.decExt v) s = .next { s with
      dec :=
        if c = 1#4 then
          lengthEnd s.maxPayload ((n <<< 8) ||| v.setWidth 64) m
            { s.dec with len := some ((n <<< 8) ||| v.setWidth 64), cnt := some 0#4 }
        else { s.dec with len := some ((n <<< 8) ||| v.setWidth 64), cnt := some (c - 1#4) } }

/-- 42_decode.md R164, with the header-end procedures of R166: CNT = 4, 3, 2, 1 name K[0], K[1], K[2], K[3]. -/
def Obligations.DecKeyFillsKeyFile : Prop :=
  ∀ (s : State) (v : Byte) (n : Len), s.dec.phase = .key → s.dec.len = some n →
    (s.dec.cnt = some 4#4 → exec (.decKey v) s = .next { s with
      dec := { s.dec with key := { s.dec.key with k0 := some v }, cnt := some 3#4 } }) ∧
    (s.dec.cnt = some 3#4 → exec (.decKey v) s = .next { s with
      dec := { s.dec with key := { s.dec.key with k1 := some v }, cnt := some 2#4 } }) ∧
    (s.dec.cnt = some 2#4 → exec (.decKey v) s = .next { s with
      dec := { s.dec with key := { s.dec.key with k2 := some v }, cnt := some 1#4 } }) ∧
    (s.dec.cnt = some 1#4 → exec (.decKey v) s = .next { s with
      dec := headerEnd n { s.dec with key := { s.dec.key with k3 := some v }, cnt := some 0#4 } })

/-- 42_decode.md R165: cell IDX takes the unmasked byte and every other cell is unchanged; the last byte completes the frame. -/
def Obligations.DecPayStoresUnmaskedByte : Prop :=
  ∀ (s : State) (v k : Byte) (n ix : Len) (m : Bool), s.dec.phase = .pay → s.dec.masked = some m → s.dec.len = some n →
    s.dec.idx = some ix → ix < n → n ≤ s.maxPayload → (m = true → s.dec.key.get (ix.toNat % 4) = some k) →
    ∃ t, exec (.decPay v) s = .next t ∧
      t.dec.pbuf.read ix.toNat = some (if m then v ^^^ k else v) ∧
      (∀ b, b ≠ ix.toNat → t.dec.pbuf.read b = s.dec.pbuf.read b) ∧
      t = { s with dec := { s.dec with
        pbuf := t.dec.pbuf, idx := some (ix + 1#64),
        res := if ix + 1#64 = n then .ok else s.dec.res,
        phase := if ix + 1#64 = n then .idle else .pay } }

/-- 42_decode.md R170: in every busy phase. -/
def Obligations.DecEosRaisesTruncated : Prop :=
  ∀ s : State, s.dec.phase ≠ .idle →
    exec (.decEos s.dec.phase.code) s = .next { s with dec := failed .truncated s.dec }

/-- 42_decode.md R171: in every busy phase. -/
def Obligations.DecFaultRaisesIo : Prop :=
  ∀ (s : State) (c : Cause), s.dec.phase ≠ .idle →
    exec (.decFault s.dec.phase.code c) s = .next { s with dec := failed .io { s.dec with cause := some c } }

/-- A row runs only where the unit's PHASE, and the byte ENC offers, name it. A row of DSTEP, ESTEP, HDR, OPC, LEN.D or LEN.E
changes nothing while its unit is IDLE, where an answer is no transfer (R167, R172, R198, R202), and is refused by name in another
busy phase (the model's choice, log 13). LEN.CHK without a complete length (log 12), and LEN.TIER, MASK.KEY, MASK.XOR and
MASK.PASS away from their place (log 31), are refused by name in every phase, IDLE included: the model's choice. Operands that
the row's constraint excludes are refused. -/
def Obligations.UnselectedRowsDoNotRun : Prop :=
  ∀ (s : State) (v : Byte) (c : Cause) (ph : BitVec 3) (f : FirstByte) (m : Bool) (l7 : BitVec 7),
    (∀ p ∈ decRows v f m l7, s.dec.phase ≠ p.1 →
      exec p.2 s = if s.dec.phase = .idle then .next s else .refused .notSelected) ∧
    (∀ p ∈ encRows f m l7, s.enc.phase ≠ p.1 →
      exec p.2 s = if s.enc.phase = .idle then .next s else .refused .notSelected) ∧
    (1#3 ≤ ph → ph ≤ 5#3 → s.dec.phase.code ≠ ph → ∀ i ∈ [Instr.decEos ph, .decFault ph c],
      exec i s = if s.dec.phase = .idle then .next s else .refused .notSelected) ∧
    (1#3 ≤ ph → ph ≤ 6#3 → s.enc.phase.code ≠ ph →
      exec (.encFault ph c) s = if s.enc.phase = .idle then .next s else .refused .notSelected) ∧
    (∀ a k o n, s.enc.phase = .hdr0 → s.enc.fin = some a → s.enc.opc = some o → s.enc.masked = some k → s.enc.len = some n →
      (f ≠ ⟨a, 0#3, o⟩ ∨ m ≠ k ∨ l7 ≠ (lengthField n.toNat).1) →
      exec (headerRow .enc f m l7) s = .refused .notSelected ∧
      exec (opcodeRow f.opc .enc f.fin f.rsv (secondByte m l7)) s = .refused .notSelected) ∧
    (∀ k n, s.enc.phase = .hdr1 → s.enc.masked = some k → s.enc.len = some n → (m ≠ k ∨ l7 ≠ (lengthField n.toNat).1) →
      exec (lenERow m l7) s = .refused .notSelected) ∧
    (s.dec.phase = .idle ∨ s.dec.len = none ∨ (s.dec.phase = .ext ∧ s.dec.cnt ≠ some 0#4) →
      exec (.lenChk m l7) s = .refused .notSelected) ∧
    (s.enc.phase ≠ .hdr1 → exec (.lenTier m l7) s = .refused .notSelected) ∧
    (s.dec.phase ≠ .key ∨ s.dec.cnt ≠ some 4#4 → exec (.maskKey .dec l7) s = .refused .notSelected) ∧
    (s.enc.phase ≠ .key ∨ s.enc.cnt ≠ some 4#4 → exec (.maskKey .enc l7) s = .refused .notSelected) ∧
    (s.dec.phase ≠ .pay ∨ s.dec.masked ≠ some true → exec (.maskXor .dec l7) s = .refused .notSelected) ∧
    (s.enc.phase ≠ .pay ∨ s.enc.masked ≠ some true → exec (.maskXor .enc l7) s = .refused .notSelected) ∧
    (s.dec.phase ≠ .pay ∨ s.dec.masked ≠ some false → exec (.maskPass .dec l7) s = .refused .notSelected) ∧
    (s.enc.phase ≠ .pay ∨ s.enc.masked ≠ some false → exec (.maskPass .enc l7) s = .refused .notSelected) ∧
    (∀ i : Instr, i.wf = false → exec i s = .refused .illFormed)

/-! ## The encoder's steps (family ESTEP) -/

/-- 43_encode.md R189; the key port is sampled only when masking, K[0] from bits 31 to 24. -/
def Obligations.EncStartSamplesFrame : Prop :=
  ∀ (s : State) (p : EncPorts),
    (s.enc.phase = .idle → p.len ≤ s.maxPayload → exec (.encStart p) s = .next { s with
      enc := {
        fin := some p.fin, opc := some p.opcode, masked := some p.masked, len := some p.len,
        key := if p.masked then
            ⟨some ((p.key >>> 24).setWidth 8), some ((p.key >>> 16).setWidth 8), some ((p.key >>> 8).setWidth 8),
              some (p.key.setWidth 8)⟩
          else ⟨none, none, none, none⟩,
        idx := none, cnt := none, phase := .hdr0, res := .noResult, cause := none } }) ∧
    (s.enc.phase ≠ .idle → exec (.encStart p) s = .next s)

/-- 43_encode.md R190. -/
def Obligations.EncHdr0WritesFirstByte : Prop :=
  ∀ (s : State) (f : Bool) (o : BitVec 4), s.enc.phase = .hdr0 → s.enc.fin = some f → s.enc.opc = some o →
    exec .encHdr0 s = .next { s with
      snk := accepting [bit7 f ||| o.setWidth 8] 0 s.snk, enc := { s.enc with phase := .hdr1 } }

/-- 43_encode.md R191, with R126 and the header-end procedures of R195. -/
def Obligations.EncHdr1WritesMinimalTier : Prop :=
  ∀ (s : State) (m : Bool) (n : Len), s.enc.phase = .hdr1 → s.enc.masked = some m → s.enc.len = some n →
    exec .encHdr1 s = .next (
      if n.toNat < 126 then
        { s with snk := accepting [bit7 m ||| n.setWidth 8] 0 s.snk, enc := encLengthEnd n m s.enc }
      else if n.toNat ≤ 65535 then
        { s with snk := accepting [bit7 m ||| 126#8] 0 s.snk, enc := { s.enc with cnt := some 2#4, phase := .ext } }
      else
        { s with snk := accepting [bit7 m ||| 127#8] 0 s.snk, enc := { s.enc with cnt := some 8#4, phase := .ext } })

/-- 43_encode.md R192: the byte of weight 256^(CNT - 1) of the length. -/
def Obligations.EncExtWritesLengthBytes : Prop :=
  ∀ (s : State) (m : Bool) (n : Len) (c : BitVec 4), s.enc.phase = .ext → s.enc.masked = some m → s.enc.len = some n →
    s.enc.cnt = some c → 1#4 ≤ c → c ≤ 8#4 →
    exec .encExt s = .next { s with
      snk := accepting [BitVec.ofNat 8 (n.toNat / 256 ^ (c.toNat - 1))] 0 s.snk,
      enc :=
        if c = 1#4 then encLengthEnd n m { s.enc with cnt := some 0#4 } else { s.enc with cnt := some (c - 1#4) } }

/-- 43_encode.md R193. -/
def Obligations.EncKeyWritesKeyBytes : Prop :=
  ∀ (s : State) (n : Len) (c : BitVec 4) (k : Byte), s.enc.phase = .key → s.enc.len = some n → s.enc.cnt = some c →
    1#4 ≤ c → c ≤ 4#4 → s.enc.key.get (4 - c.toNat) = some k →
    exec .encKey s = .next { s with
      snk := accepting [k] 0 s.snk,
      enc := if c = 1#4 then encHeaderEnd n { s.enc with cnt := some 0#4 } else { s.enc with cnt := some (c - 1#4) } }

/-- 43_encode.md R194. The caller's cell shows its value, or any byte when it holds none (R255). -/
def Obligations.EncPayWritesMaskedByte : Prop :=
  ∀ (s : State) (k : Byte) (n ix : Len) (m : Bool), s.enc.phase = .pay → s.enc.masked = some m → s.enc.len = some n →
    s.enc.idx = some ix → ix < n → n ≤ s.maxPayload → (m = true → s.enc.key.get (ix.toNat % 4) = some k) →
    ∃ x, (∀ b, s.encPbuf.read ix.toNat = some b → x = b) ∧
      exec .encPay s = .next { s with
        snk := accepting [if m then x ^^^ k else x] 0 s.snk,
        enc := { s.enc with idx := some (ix + 1#64), phase := if ix + 1#64 = n then .flush else .pay } }

/-- 43_encode.md R196, R197: at `Ok`, OK, and the tentative bytes become written; a fault at the flush fails the whole ENCODE. -/
def Obligations.EncFlushCommitsFrame : Prop :=
  ∀ s : State, s.enc.phase = .flush →
    exec .encFlush s = .next { s with
      snk := { s.snk with written := s.snk.written ++ s.snk.tentative, tentative := [] },
      enc := { s.enc with res := .ok, phase := .idle } } ∧
    (∀ c, exec (.encFault s.enc.phase.code c) s = .next { s with
      snk := { s.snk with tentative := [], abandoned := s.snk.abandoned ++ [s.snk.tentative] },
      enc := { s.enc with res := .io, cause := some c, phase := .idle } })

/-- 43_encode.md R201, R197: in every busy phase; the offered byte is not accepted and no tentative byte is written. -/
def Obligations.EncFaultRaisesIo : Prop :=
  ∀ (s : State) (c : Cause), s.enc.phase ≠ .idle →
    exec (.encFault s.enc.phase.code c) s = .next { s with
      snk := { s.snk with tentative := [], abandoned := s.snk.abandoned ++ [s.snk.tentative] },
      enc := { s.enc with res := .io, cause := some c, phase := .idle } }

/-! ## The length and mask families (format SUB) -/

/-- 40_length.md R121, with the check of R124 and the header-end procedures of R166. -/
def Obligations.LenD7TakesInlineLength : Prop :=
  ∀ (s : State) (m : Bool) (l7 : BitVec 7), s.dec.phase = .hdr1 → l7.toNat ≤ 125 →
    exec (.lenD7 m l7) s = .next { s with
      src := ⟨s.src.answers, s.src.taken + 1⟩,
      dec := lengthEnd s.maxPayload (l7.setWidth 64) m
        { s.dec with masked := some m, len := some (l7.setWidth 64) } }

/-- 40_length.md R122, with its exceptions and the check of R124. -/
def Obligations.LenD16TakesTwoBytes : Prop := ∀ m, ReadsLength (.lenD16 m) m 2

/-- 40_length.md R123, with its exceptions and the check of R124. -/
def Obligations.LenD64TakesEightBytes : Prop := ∀ m, ReadsLength (.lenD64 m) m 8

/-- 40_length.md R124: at every point where a complete length is held, whatever b1 the row's word gives (the model's choice,
log 34). -/
def Obligations.LenChkComparesWithMaxPayload : Prop :=
  ∀ (s : State) (m : Bool) (l7 : BitVec 7) (n : Len), s.dec.len = some n →
    (s.dec.phase = .hdr1 ∨ (s.dec.phase = .ext ∧ s.dec.cnt = some 0#4) ∨ s.dec.phase = .key ∨ s.dec.phase = .pay) →
    exec (.lenChk m l7) s =
      .next (if s.maxPayload.toNat < n.toNat then { s with dec := failed .lengthOverflow s.dec } else s)

/-- 40_length.md R126. The model keeps the tier as the number of extended bytes in ENC.CNT (the model's choice, log 11), whatever b1
the row's word gives (log 34). -/
def Obligations.LenTierChoosesMinimalTier : Prop :=
  ∀ (s : State) (m : Bool) (l7 : BitVec 7) (n : Len), s.enc.phase = .hdr1 → s.enc.len = some n →
    exec (.lenTier m l7) s = .next { s with
      enc := { s.enc with
        cnt := some (if n.toNat < 126 then 0#4 else if n.toNat ≤ 65535 then 2#4 else 8#4) } }

/-- 40_length.md R127. -/
def Obligations.LenE7WritesInlineLength : Prop :=
  ∀ (s : State) (m : Bool) (n : Len), s.enc.phase = .hdr1 → s.enc.masked = some m → s.enc.len = some n → n.toNat < 126 →
    WritesLength (.lenE7 m (n.setWidth 7)) s m n [bit7 m ||| n.setWidth 8]

/-- 40_length.md R128. -/
def Obligations.LenE16WritesTwoBytes : Prop :=
  ∀ (s : State) (m : Bool) (n : Len), s.enc.phase = .hdr1 → s.enc.masked = some m → s.enc.len = some n →
    126 ≤ n.toNat → n.toNat ≤ 65535 →
    WritesLength (.lenE16 m) s m n [bit7 m ||| 126#8, (n >>> 8).setWidth 8, n.setWidth 8]

/-- 40_length.md R129. -/
def Obligations.LenE64WritesEightBytes : Prop :=
  ∀ (s : State) (m : Bool) (n : Len), s.enc.phase = .hdr1 → s.enc.masked = some m → s.enc.len = some n → 65535 < n.toNat →
    WritesLength (.lenE64 m) s m n
      [bit7 m ||| 127#8, (n >>> 56).setWidth 8, (n >>> 48).setWidth 8, (n >>> 40).setWidth 8, (n >>> 32).setWidth 8,
        (n >>> 24).setWidth 8, (n >>> 16).setWidth 8, (n >>> 8).setWidth 8, n.setWidth 8]

/-- 41_mask.md R141: four bytes in wire order, read into K or written from K, with the exceptions of either side, whatever length7
the row's word gives (the model's choice, log 34). -/
def Obligations.MaskKeyMovesFourBytes : Prop :=
  ∀ (s : State) (l7 : BitVec 7) (n : Len),
    (s.dec.phase = .key → s.dec.cnt = some 4#4 → s.dec.len = some n →
      let as := s.src.answers.map SrcAnswer.meaning
      exec (.maskKey .dec l7) s = .next (
        match readBytes 4 as with
        | .done bs _ => { s with
            src := ⟨s.src.answers.drop 4, s.src.taken + 4⟩,
            dec := headerEnd n { s.dec with key := keyAfter bs s.dec.key, cnt := some 0#4 } }
        | .failed e rest =>
          decodeFailed s e (endedAt s.src 0 (as.length - rest.length)) (left 4 (as.length - rest.length - 1))
        | .waits => { s with
            src := ⟨[], s.src.taken + as.length⟩,
            dec := { s.dec with key := keyAfter (given as) s.dec.key, cnt := left 4 as.length } })) ∧
    (∀ k, s.enc.phase = .key → s.enc.cnt = some 4#4 → s.enc.len = some n → s.enc.key = keyFile k →
      exec (.maskKey .enc l7) s = .next (
        match writeBytes k.bytes (s.snk.answers.map SnkAnswer.meaning) with
        | .done _ _ => { s with
            snk := accepting k.bytes 4 s.snk, enc := encHeaderEnd n { s.enc with cnt := some 0#4 } }
        | .failed c acc _ => encodeFailed s c acc (left 4 acc.length)
        | .waits acc => encodeWaits s acc .key (left 4 acc.length)))

/-- 41_mask.md R142, on both sides, whatever length7 the row's word gives (the model's choice, log 34). -/
def Obligations.MaskXorMasksOneByte : Prop :=
  ∀ l7, ReadsPayloadByte (.maskXor .dec l7) true ∧ WritesPayloadByte (.maskXor .enc l7) true

/-- 41_mask.md R143, on both sides, whatever length7 the row's word gives (the model's choice, log 34). -/
def Obligations.MaskPassMovesOneByte : Prop :=
  ∀ l7, ReadsPayloadByte (.maskPass .dec l7) false ∧ WritesPayloadByte (.maskPass .enc l7) false

/-! ## Header forms and frame opcodes (formats HDR and OPC) -/

/-- 30_encoding.md R94, 42_decode.md R153: a header of each of the six forms taken by DEC, whatever the source answers after b1:
the extended length, the check, the key. -/
def Obligations.HeaderFormsOnDecode : Prop :=
  ∀ (s : State) (f : FirstByte) (m : Bool) (l7 : BitVec 7), s.dec.phase = .hdr0 →
    let as := s.src.answers.map SrcAnswer.meaning
    let x := if l7.toNat ≤ 125 then 0 else if l7.toNat = 126 then 2 else 8
    let d := { s.dec with fin := some f.fin, opc := some f.opc, masked := some m }
    exec (headerRow .dec f m l7) s = .next (
      match readLength l7 as with
      | .failed e rest =>
        decodeFailed s e (endedAt s.src 2 (as.length - rest.length)) (left x (as.length - rest.length - 1))
      | .waits => { s with
          src := ⟨[], s.src.taken + 2 + as.length⟩,
          dec := { d with len := some (BitVec.ofNat 64 (beNat (given as))), cnt := left x as.length, phase := .ext } }
      | .done n rest =>
        if s.maxPayload.toNat < n then
          decodeFailed s .lengthOverflow ⟨s.src.answers.drop x, s.src.taken + 2 + x⟩ (if x = 0 then s.dec.cnt else some 0#4)
        else if m then
          match readBytes 4 rest with
          | .failed e rest' =>
            decodeFailed s e (endedAt s.src 2 (as.length - rest'.length)) (left 4 (rest.length - rest'.length - 1))
          | .waits => { s with
              src := ⟨[], s.src.taken + 2 + as.length⟩,
              dec := { d with
                len := some (BitVec.ofNat 64 n), key := keyAfter (given rest) s.dec.key, cnt := left 4 rest.length,
                phase := .key } }
          | .done bs _ => { s with
              src := ⟨s.src.answers.drop (x + 4), s.src.taken + 2 + x + 4⟩,
              dec := headerEnd (BitVec.ofNat 64 n) { d with
                len := some (BitVec.ofNat 64 n), key := keyAfter bs s.dec.key, cnt := some 0#4 } }
        else { s with
          src := ⟨s.src.answers.drop x, s.src.taken + 2 + x⟩,
          dec := headerEnd (BitVec.ofNat 64 n) { d with
            len := some (BitVec.ofNat 64 n), cnt := if x = 0 then s.dec.cnt else some 0#4 } })

/-- 30_encoding.md R94, 43_encode.md R183: a header of each of the six forms written by ENC: the one its registers name, whatever
the sink answers; the reserved bits are 0. -/
def Obligations.HeaderFormsOnEncode : Prop :=
  ∀ (s : State) (a m : Bool) (o : BitVec 4) (n : Len) (k : Key4), s.enc.phase = .hdr0 → s.enc.fin = some a → s.enc.opc = some o →
    s.enc.masked = some m → s.enc.len = some n → (m = true → s.enc.key = keyFile k) →
    let field := lengthField n.toNat
    let x := field.2.length
    let bs := [bit7 a ||| o.setWidth 8, bit7 m ||| field.1.setWidth 8] ++ field.2 ++ (if m then k.bytes else [])
    exec (headerRow .enc ⟨a, 0#3, o⟩ m field.1) s = .next (
      match writeBytes bs (s.snk.answers.map SnkAnswer.meaning) with
      | .done _ _ => { s with
          snk := accepting bs bs.length s.snk,
          enc := encHeaderEnd n { s.enc with cnt := if m = true ∨ 126 ≤ n.toNat then some 0#4 else s.enc.cnt } }
      | .failed c acc _ => encodeFailed s c acc (cntAt x acc.length s.enc.cnt)
      | .waits acc => encodeWaits s acc (phaseAt x acc.length) (cntAt x acc.length s.enc.cnt))

/-- 30_encoding.md R100, R101: each of the sixteen opcode rows, taken by DEC: OPC is the row's value, FIN the word's, and b1 then
does what DEC.HDR1 does. -/
def Obligations.OpcodeRowsOnDecode : Prop :=
  ∀ (s : State) (o : BitVec 4) (fin : Bool) (rsv : BitVec 3) (b1 : Byte), s.dec.phase = .hdr0 →
    let s' : State := { s with
      src := ⟨s.src.answers, s.src.taken + 2⟩, dec := { s.dec with fin := some fin, opc := some o, phase := .hdr1 } }
    (∃ t, exec (opcodeRow o .dec fin rsv b1) s = .next t) ∧ exec (opcodeRow o .dec fin rsv b1) s = exec (.decHdr1 b1) s'

/-- 30_encoding.md R100, R101: each of the sixteen opcode rows, written by ENC when its registers name that word, whatever the sink
answers: b0 has the row's value in bits 3 to 0. -/
def Obligations.OpcodeRowsOnEncode : Prop :=
  ∀ (s : State) (o : BitVec 4) (fin m : Bool) (n : Len), s.enc.phase = .hdr0 →
    s.enc.fin = some fin → s.enc.opc = some o → s.enc.masked = some m → s.enc.len = some n →
    let b0 := bit7 fin ||| o.setWidth 8
    let b1 := bit7 m ||| (lengthField n.toNat).1.setWidth 8
    exec (opcodeRow o .enc fin 0#3 b1) s = .next (
      match writeBytes [b0, b1] (s.snk.answers.map SnkAnswer.meaning) with
      | .done _ _ => { s with
          snk := accepting [b0, b1] 2 s.snk,
          enc :=
            if n.toNat < 126 then encLengthEnd n m s.enc
            else if n.toNat ≤ 65535 then { s.enc with cnt := some 2#4, phase := .ext }
            else { s.enc with cnt := some 8#4, phase := .ext } }
      | .failed c acc _ => encodeFailed s c acc s.enc.cnt
      | .waits acc => encodeWaits s acc (if acc = [] then .hdr0 else .hdr1) s.enc.cnt)

/-- 30_encoding.md R100: nothing depends on the opcode but OPC and the low nibble of b0: two opcode rows with the same other bits
(log 9), two whole DECODEs whose first byte differs in its low nibble, and two whole ENCODEs whose opcode port differs, give the
same states but for that nibble. -/
def Obligations.OpcodeIsNeverInterpreted : Prop :=
  (∀ (s t : State) (o o' : BitVec 4) (fin : Bool) (rsv : BitVec 3) (b1 : Byte), s.dec.phase = .hdr0 →
    exec (opcodeRow o .dec fin rsv b1) s = .next t →
    exec (opcodeRow o' .dec fin rsv b1) s = .next { t with dec := { t.dec with opc := t.dec.opc.map fun _ => o' } }) ∧
  (∀ (s t : State) (o' : BitVec 4) (v : Byte) (c : Cause) (as : List SrcAnswer), s.dec.phase = .idle →
    s.src.answers = ⟨0#2, v, c⟩ :: as → exec .decode s = .next t →
    exec .decode { s with src := { s.src with answers := ⟨0#2, withOpcode o' v, c⟩ :: as } } =
      .next { t with dec := { t.dec with opc := t.dec.opc.map fun _ => o' } }) ∧
  (∀ (s t : State) (p : EncPorts) (o' : BitVec 4), s.enc.phase = .idle → s.snk.tentative = [] → exec (.encode p) s = .next t →
    exec (.encode { p with opcode := o' }) s = .next { t with
      enc := { t.enc with opc := some o' },
      snk := { t.snk with
        accepted := s.snk.accepted ++ recode o' (t.snk.accepted.drop s.snk.accepted.length),
        written := s.snk.written ++ recode o' (t.snk.written.drop s.snk.written.length),
        tentative := recode o' t.snk.tentative,
        abandoned := s.snk.abandoned ++ (t.snk.abandoned.drop s.snk.abandoned.length).map (recode o') } })

/-- 30_encoding.md R98: RSV1 to RSV3 change nothing on decode and raise no error, and are 0 in every first byte written. -/
def Obligations.ReservedBitsIgnoredAndWrittenZero : Prop :=
  (∀ (s : State) (v : Byte), exec (.decHdr0 v) s = exec (.decHdr0 (v &&& 0x8F#8)) s) ∧
  (∀ (s : State) (v : Byte), s.dec.phase = .hdr0 → ∃ t, exec (.decHdr0 v) s = .next t ∧ t.dec.phase = .hdr1) ∧
  (∀ s : State, s.enc.phase = .hdr0 →
    ∃ t b, exec .encHdr0 s = .next t ∧ t.snk.accepted = s.snk.accepted ++ [b] ∧ b &&& 0x70#8 = 0#8)

/-! ## The commands (format CMD) and the operation level -/

/-- 42_decode.md R168 (with R151, R169): from an IDLE decoder, DECODE on the source's answers ends as the pseudocode of R151 ends
on the same answers, after exactly its transfers; if the source stops answering, DEC waits. -/
def Obligations.DecodeCommandAgreesWithOperation : Prop :=
  ∀ s : State, s.dec.phase = .idle →
    match opDecode s.maxPayload (s.src.answers.map SrcAnswer.meaning) with
    | .done f rest => ∃ t, exec .decode s = .next t ∧ t.dec.phase = .idle ∧ t.dec.res = .ok ∧ t.dec.frame = some f ∧
        t.src.answers.map SrcAnswer.meaning = rest ∧
        t.src.taken + t.src.answers.length = s.src.taken + s.src.answers.length ∧ t = { s with dec := t.dec, src := t.src }
    | .failed e rest => ∃ t, exec .decode s = .next t ∧ t.dec.phase = .idle ∧ t.dec.res = e.result ∧
        t.dec.cause = (match e with
          | .io c => some c
          | .truncated => none
          | .lengthOverflow => none) ∧
        t.dec.FrameUnset ∧ t.src.answers.map SrcAnswer.meaning = rest ∧
        t.src.taken + t.src.answers.length + (if e = .lengthOverflow then 0 else 1) = s.src.taken + s.src.answers.length ∧
        t = { s with dec := t.dec, src := t.src }
    | .waits => ∃ t, exec .decode s = .next t ∧ t.dec.phase ≠ .idle ∧ t.dec.res = .noResult ∧ t.src.answers = [] ∧
        t.src.taken = s.src.taken + s.src.answers.length ∧ t = { s with dec := t.dec, src := t.src }

/-- 43_encode.md R199 (with R181, R182, R197): from an IDLE encoder with no tentative byte, ENCODE of the Frame presented on the
ports and in the caller's buffer writes what the pseudocode of R181 writes on the same answers; only when the flush is confirmed
do the bytes, `EncodeBytes(f)`, become written. -/
def Obligations.EncodeCommandAgreesWithOperation : Prop :=
  ∀ (s : State) (p : EncPorts) (f : Frame), s.enc.phase = .idle → s.snk.tentative = [] → p.len ≤ s.maxPayload →
    presentedFrame p s.encPbuf = some f →
    match opEncode f (s.snk.answers.map SnkAnswer.meaning) with
    | .done acc rest => acc = encodeBytes f ∧ ∃ t, exec (.encode p) s = .next t ∧ t.enc.phase = .idle ∧ t.enc.res = .ok ∧
        t.enc.cause = none ∧ t.snk.answers.map SnkAnswer.meaning = rest ∧
        t.snk = { s.snk with answers := t.snk.answers, accepted := s.snk.accepted ++ acc, written := s.snk.written ++ acc } ∧
        t = { s with enc := t.enc, snk := t.snk }
    | .failed c acc rest => ∃ t, exec (.encode p) s = .next t ∧ t.enc.phase = .idle ∧ t.enc.res = .io ∧
        t.enc.cause = some c ∧ t.snk.answers.map SnkAnswer.meaning = rest ∧
        t.snk = { s.snk with answers := t.snk.answers, accepted := s.snk.accepted ++ acc,
                             abandoned := s.snk.abandoned ++ [acc] } ∧
        t = { s with enc := t.enc, snk := t.snk }
    | .waits acc => ∃ t, exec (.encode p) s = .next t ∧ t.enc.phase ≠ .idle ∧ t.enc.res = .noResult ∧
        t.snk = { s.snk with answers := [], accepted := s.snk.accepted ++ acc, tentative := acc } ∧
        t = { s with enc := t.enc, snk := t.snk }

/-- 43_encode.md R188: a DECODE whose source gives the bytes of `EncodeBytes(f)`, whatever follows them, ends with OK, consumes
exactly those bytes and holds `f`. -/
def Obligations.DecodeOfEncodedFrameGivesItBack : Prop :=
  ∀ (s : State) (f : Frame) (rest : List SrcAnswer), s.dec.phase = .idle → f.fits s.maxPayload = true →
    s.src.answers = (encodeBytes f).map SrcAnswer.ofByte ++ rest →
    ∃ t, exec .decode s = .next t ∧ t.dec.phase = .idle ∧ t.dec.res = .ok ∧ t.dec.frame = some f ∧
      t.src.answers = rest ∧ t.src.taken = s.src.taken + (encodeBytes f).length ∧ t = { s with dec := t.dec, src := t.src }

/-- 42_decode.md R173: an operation ends after at most 14 + MAX_PAYLOAD transfers, if the source answers that often. -/
def Obligations.DecodeEndsWithinBound : Prop :=
  ∀ s : State, s.dec.phase = .idle → 14 + s.maxPayload.toNat ≤ s.src.answers.length →
    ∃ t, exec .decode s = .next t ∧ t.dec.phase = .idle ∧ t.dec.res ≠ .noResult ∧
      s.src.answers.length ≤ t.src.answers.length + 14 + s.maxPayload.toNat

/-- 70_reset_and_hazards.md R252: a start of either form given while the unit is busy is ignored, not queued. -/
def Obligations.StartsWhileBusyAreIgnored : Prop :=
  ∀ (s : State) (p : EncPorts) (w : Edge) (rest : List Request),
    (s.dec.phase ≠ .idle → exec .decode s = .next s ∧ exec .decStart s = .next s) ∧
    (s.enc.phase ≠ .idle → exec (.encode p) s = .next s ∧ exec (.encStart p) s = .next s) ∧
    (s.agenda = .edge w :: rest → s.dec.phase ≠ .idle →
      step s = step { s with agenda := .edge { w with decStart := false } :: rest }) ∧
    (s.agenda = .edge w :: rest → s.enc.phase ≠ .idle →
      step s = step { s with agenda := .edge { w with encStart := false } :: rest })

/-- 70_reset_and_hazards.md R255 (U7): a length above MAX_PAYLOAD has no meaning at an accepted start, and the model refuses. -/
def Obligations.EncodeAboveBufferIsRefused : Prop :=
  ∀ (s : State) (p : EncPorts), s.enc.phase = .idle → s.maxPayload.toNat < p.len.toNat →
    exec (.encStart p) s = .refused .encLenAboveMax ∧ exec (.encode p) s = .refused .encLenAboveMax

/-- 70_reset_and_hazards.md R253, 10_state.md R22: a caller's read of a Frame register or of the buffer faults unless DEC.RES is
OK; in a legal state with DEC.RES = OK it goes through, DEC.K only for a masked frame and a cell only below DEC.LEN. DEC.CAUSE and
ENC.CAUSE (R33, R46) fault unless their unit's RES is IO, and go through in a legal state where it is. The busy and result ports
always have a value. That a read without a value faults is the model's form (log 20). -/
def Obligations.CallerReadsOnlyValidRegisters : Prop :=
  ∀ (s : State) (p : OutPort) (rest : List Request), s.agenda = .callerRead p :: rest →
    (s.dec.res ≠ .ok → (p ∈ [OutPort.decFin, .decOpcode, .decMasked, .decLen, .decKey] ∨ ∃ addr, p = .decPbData addr) →
      step s = .fault (.noValueRead p)) ∧
    (s.Legal → s.dec.res = .ok →
      (p ∈ [OutPort.decFin, .decOpcode, .decMasked, .decLen] → step s = .next { s with agenda := rest, tick := s.tick + 1 }) ∧
      (p = .decKey → step s =
        if s.dec.masked = some true then .next { s with agenda := rest, tick := s.tick + 1 } else .fault (.noValueRead p)) ∧
      (∀ addr n, p = .decPbData addr → s.dec.len = some n → step s =
        if addr < n then .next { s with agenda := rest, tick := s.tick + 1 } else .fault (.noValueRead p))) ∧
    (s.dec.res ≠ .io → p = .decCause → step s = .fault (.noValueRead p)) ∧
    (s.enc.res ≠ .io → p = .encCause → step s = .fault (.noValueRead p)) ∧
    (s.Legal → ((p = .decCause ∧ s.dec.res = .io) ∨ (p = .encCause ∧ s.enc.res = .io)) →
      step s = .next { s with agenda := rest, tick := s.tick + 1 }) ∧
    (p ∈ [OutPort.decBusy, .decRes, .encBusy, .encRes] → step s = .next { s with agenda := rest, tick := s.tick + 1 })

/-- 70_reset_and_hazards.md R254 (U11): a write of the caller to a cell of the running ENCODE is refused; while ENC is IDLE an
existing cell takes the byte and no other cell changes (10_state.md R41). Two of the outcomes are the model's choice: that a cell at
or above ENC.LEN takes the byte while ENC is busy (log 19), and that a write at or above MAX_PAYLOAD, which names no cell
(20_memory.md R66), faults (log 21). -/
def Obligations.CallerBufferIsHeldDuringEncode : Prop :=
  ∀ (s : State) (a : Nat) (v : Byte) (rest : List Request), s.agenda = .callerWrite a v :: rest →
    (s.maxPayload.toNat ≤ a → step s = .fault (.noSuchCell .enc a)) ∧
    (∀ n, a < s.maxPayload.toNat → s.enc.phase ≠ .idle → s.enc.len = some n → a < n.toNat →
      step s = .refused .pbufWrittenDuringEncode) ∧
    (∀ n, a < s.maxPayload.toNat → (s.enc.phase = .idle ∨ (s.enc.len = some n ∧ n.toNat ≤ a)) →
      ∃ t, step s = .next t ∧ t.encPbuf.read a = some v ∧ (∀ b, b ≠ a → t.encPbuf.read b = s.encPbuf.read b) ∧
        t = { s with agenda := rest, tick := s.tick + 1, encPbuf := t.encPbuf })

/-! ## Invariants -/

/-- 10_state.md R21, R22, R28, R29, R45 and the legal values of every register: a step of any kind from a legal state ends in a
legal state. -/
def Obligations.LegalStatesStayLegal : Prop := ∀ s t : State, s.Legal → step s = .next t → t.Legal

/-- The state after reset is legal. -/
def Obligations.ResetStateIsLegal : Prop := State.reset.Legal

/-- 10_state.md R22: no instruction looks at a register that holds no value: from a legal state with the caller's cells written,
what it does is the same whatever the free values are: DEC reads them at `tick`, ENC at `State.offerCount`, which the longer
record of abandoned bytes moves. -/
def Obligations.NoStepReadsUnsetRegister : Prop :=
  ∀ (s : State) (i : Instr) (k : Nat) (old : List (List Byte)), s.Legal →
    (∀ a, a < s.maxPayload.toNat → (s.encPbuf.read a).isSome = true) →
    exec i { s with tick := k, snk := { s.snk with abandoned := old ++ s.snk.abandoned } } =
      match exec i s with
      | .next t => .next { t with tick := k, snk := { t.snk with abandoned := old ++ t.snk.abandoned } }
      | .fault f => .fault f
      | .refused r => .refused r

/-! ## Encodings -/

/-- 30_encoding.md R92 to R94, R101, R108, R109: decoding the word of a well-formed instruction in its table gives it back, and
what a table reads is well formed, of that table, and has that word. -/
def Obligations.DecodeEncodeRoundTrip : Prop :=
  (∀ (i : Instr) (rest : List Byte), i.wf = true → decodeIn i.table (encode i ++ rest) = .ok (i, rest)) ∧
  (∀ (t : Table) (bs rest : List Byte) (i : Instr), decodeIn t bs = .ok (i, rest) →
    i.table = t ∧ i.wf = true ∧ encode i ++ rest = bs)

/-- 30_encoding.md R94: every 16-bit value b0 ++ b1 is exactly one header form, by the table's masks. -/
def Obligations.HeaderFormsPartitionWords : Prop :=
  ∀ (side : Side) (w : BitVec 16), ∃ i, decodeIn (.hdr side) [w.extractLsb' 8 8, w.extractLsb' 0 8] = .ok (i, []) ∧
    (w &&& 0x00FF#16 = 0x007E#16 ↔ ∃ f, i = .hdrE16 side f) ∧
    (w &&& 0x00FF#16 = 0x00FE#16 ↔ ∃ f, i = .hdrE16M side f) ∧
    (w &&& 0x00FF#16 = 0x007F#16 ↔ ∃ f, i = .hdrE64 side f) ∧
    (w &&& 0x00FF#16 = 0x00FF#16 ↔ ∃ f, i = .hdrE64M side f) ∧
    ((w &&& 0x0080#16 = 0x0000#16 ∧ (w &&& 0x007F#16).toNat ≤ 125) ↔ ∃ f l7, i = .hdrS side f l7) ∧
    ((w &&& 0x0080#16 = 0x0080#16 ∧ (w &&& 0x007F#16).toNat ≤ 125) ↔ ∃ f l7, i = .hdrSM side f l7)

/-- Words written out from the spec (95_test_vectors.md 2.12, 10_state.md R30 and R44, 30_encoding.md R94 and R112) decode to
the instructions they stand for. -/
def Obligations.WrittenOutWordsDecode : Prop :=
  decodeIn (.hdr .dec) [0x81#8, 0x05#8] = .ok (.hdrS .dec ⟨true, 0#3, 1#4⟩ 5#7, []) ∧
  decodeIn (.hdr .dec) [0x8A#8, 0x80#8] = .ok (.hdrSM .dec ⟨true, 0#3, 10#4⟩ 0#7, []) ∧
  decodeIn (.hdr .dec) [0x02#8, 0x7E#8] = .ok (.hdrE16 .dec ⟨false, 0#3, 2#4⟩, []) ∧
  decodeIn (.hdr .enc) [0x82#8, 0xFE#8] = .ok (.hdrE16M .enc ⟨true, 0#3, 2#4⟩, []) ∧
  decodeIn (.hdr .dec) [0x7F#8, 0xFF#8] = .ok (.hdrE64M .dec ⟨false, 7#3, 15#4⟩, []) ∧
  decodeIn (.opc .dec) [0xF3#8, 0x7E#8] = .ok (.opRsvd3 .dec true 7#3 0x7E#8, []) ∧
  decodeIn (.opc .dec) [0x89#8, 0x00#8] = .ok (.opPing .dec true 0#3 0x00#8, []) ∧
  decodeIn .cmdDec [0x01#8] = .ok (.decode, []) ∧
  decodeIn (.dstep (.data 0x37#8)) [0x04#8] = .ok (.decKey 0x37#8, []) ∧
  decodeIn (.dstep .eos) [0x05#8] = .ok (.decEos 5#3, []) ∧
  decodeIn (.estep .ok) [0x06#8] = .ok (.encFlush, []) ∧
  decodeIn (.sub .lenD16) [0xFE#8] = .ok (.lenD16 true, []) ∧
  decodeIn (.sub (.maskPass .enc)) [0x05#8] = .ok (.maskPass .enc 5#7, [])

/-- 40_length.md R132: decoding the length bytes written for any length gives it back, whatever the MASK bit. -/
def Obligations.LengthBytesReadBack : Prop :=
  ∀ (n : Len) (m : Bool) (more : List Answer),
    (∀ l7 : BitVec 7, (bit7 m ||| l7.setWidth 8) &&& 0x7F#8 = l7.setWidth 8) ∧
    readLength (lengthField n.toNat).1 ((lengthField n.toNat).2.map Answer.data ++ more) = .done n.toNat more

/-- 41_mask.md R145: masking twice with the same key from the same position gives the payload back, for any key and any
length. -/
def Obligations.MaskingTwiceRestoresPayload : Prop :=
  ∀ (k : Key4) (i : Nat) (p : List Byte), maskFrom (some k) i (maskFrom (some k) i p) = p ∧
    (maskFrom (some k) i p).length = p.length

/-- 30_encoding.md R107 and 40_length.md R131: the wire length of a Frame, and the minimal tier in its second byte. -/
def Obligations.WireLengthIsMinimal : Prop :=
  ∀ f : Frame, f.maskKey.isSome = f.masked → f.payload.length < 2 ^ 64 →
    (encodeBytes f).length =
      2 + (if f.payload.length ≤ 125 then 0 else if f.payload.length ≤ 65535 then 2 else 8) + (if f.masked then 4 else 0) +
        f.payload.length ∧
    (lengthField f.payload.length).2.length =
      (if f.payload.length ≤ 125 then 0 else if f.payload.length ≤ 65535 then 2 else 8) ∧
    ((encodeBytes f)[1]?.map fun b1 => b1 &&& 0x7F#8) =
      some (if f.payload.length ≤ 125 then BitVec.ofNat 8 f.payload.length
        else if f.payload.length ≤ 65535 then 126#8 else 127#8)
end

