-- ==== Sys2Proof/Laws/Codec.lean ====
section
/-! SUPPORT. The bytes b0 and b1: writing and reading them back. -/

namespace Sys2Proof

theorem FirstByte.ofByte_toByte (f : FirstByte) : FirstByte.ofByte f.toByte = f := by
  obtain ⟨fin, rsv, opc⟩ := f
  revert fin rsv opc
  decide

theorem maskOf_secondByte (m : Bool) (l7 : BitVec 7) : maskOf (secondByte m l7) = m := by
  revert m l7
  decide

theorem length7Of_secondByte (m : Bool) (l7 : BitVec 7) : length7Of (secondByte m l7) = l7 := by
  revert m l7
  decide

theorem secondByte_of_fields (b : Byte) : secondByte (maskOf b) (length7Of b) = b := by
  revert b
  decide

end Sys2Proof
end

