-- ==== Sys2Proof/Laws/State.lean ====
section
/-! SUPPORT. One lemma per field per update of State, each by rfl, so that no later proof unfolds an update. -/

namespace Sys2Proof.Machine

/-! ### `withDec` -/

@[simp] theorem State.withDec_dec (s : State) (d : Dec) : (s.withDec d).dec = d := rfl
@[simp] theorem State.withDec_enc (s : State) (d : Dec) : (s.withDec d).enc = s.enc := rfl
@[simp] theorem State.withDec_encPbuf (s : State) (d : Dec) : (s.withDec d).encPbuf = s.encPbuf := rfl
@[simp] theorem State.withDec_src (s : State) (d : Dec) : (s.withDec d).src = s.src := rfl
@[simp] theorem State.withDec_snk (s : State) (d : Dec) : (s.withDec d).snk = s.snk := rfl
@[simp] theorem State.withDec_agenda (s : State) (d : Dec) : (s.withDec d).agenda = s.agenda := rfl
@[simp] theorem State.withDec_maxPayload (s : State) (d : Dec) : (s.withDec d).maxPayload = s.maxPayload := rfl
@[simp] theorem State.withDec_tick (s : State) (d : Dec) : (s.withDec d).tick = s.tick := rfl
@[simp] theorem State.withDec_offerCount (s : State) (d : Dec) : (s.withDec d).offerCount = s.offerCount := rfl

/-! ### `withEnc` -/

@[simp] theorem State.withEnc_dec (s : State) (e : Enc) : (s.withEnc e).dec = s.dec := rfl
@[simp] theorem State.withEnc_enc (s : State) (e : Enc) : (s.withEnc e).enc = e := rfl
@[simp] theorem State.withEnc_encPbuf (s : State) (e : Enc) : (s.withEnc e).encPbuf = s.encPbuf := rfl
@[simp] theorem State.withEnc_src (s : State) (e : Enc) : (s.withEnc e).src = s.src := rfl
@[simp] theorem State.withEnc_snk (s : State) (e : Enc) : (s.withEnc e).snk = s.snk := rfl
@[simp] theorem State.withEnc_agenda (s : State) (e : Enc) : (s.withEnc e).agenda = s.agenda := rfl
@[simp] theorem State.withEnc_maxPayload (s : State) (e : Enc) : (s.withEnc e).maxPayload = s.maxPayload := rfl
@[simp] theorem State.withEnc_tick (s : State) (e : Enc) : (s.withEnc e).tick = s.tick := rfl
@[simp] theorem State.withEnc_offerCount (s : State) (e : Enc) : (s.withEnc e).offerCount = s.offerCount := rfl

/-! ### `takeAnswer` -/

@[simp] theorem State.takeAnswer_dec (s : State) (a : SrcAnswer) : (s.takeAnswer a).dec = s.dec := rfl
@[simp] theorem State.takeAnswer_enc (s : State) (a : SrcAnswer) : (s.takeAnswer a).enc = s.enc := rfl
@[simp] theorem State.takeAnswer_encPbuf (s : State) (a : SrcAnswer) : (s.takeAnswer a).encPbuf = s.encPbuf := rfl
@[simp] theorem State.takeAnswer_snk (s : State) (a : SrcAnswer) : (s.takeAnswer a).snk = s.snk := rfl
@[simp] theorem State.takeAnswer_agenda (s : State) (a : SrcAnswer) : (s.takeAnswer a).agenda = s.agenda := rfl
@[simp] theorem State.takeAnswer_maxPayload (s : State) (a : SrcAnswer) : (s.takeAnswer a).maxPayload = s.maxPayload := rfl
@[simp] theorem State.takeAnswer_tick (s : State) (a : SrcAnswer) : (s.takeAnswer a).tick = s.tick := rfl
@[simp] theorem State.takeAnswer_offerCount (s : State) (a : SrcAnswer) : (s.takeAnswer a).offerCount = s.offerCount := rfl
@[simp] theorem State.takeAnswer_answers (s : State) (a : SrcAnswer) : (s.takeAnswer a).src.answers = s.src.answers.tail := rfl

/-! ### `bytesGiven` -/

@[simp] theorem State.bytesGiven_dec (s : State) (k : Nat) : (s.bytesGiven k).dec = s.dec := rfl
@[simp] theorem State.bytesGiven_enc (s : State) (k : Nat) : (s.bytesGiven k).enc = s.enc := rfl
@[simp] theorem State.bytesGiven_encPbuf (s : State) (k : Nat) : (s.bytesGiven k).encPbuf = s.encPbuf := rfl
@[simp] theorem State.bytesGiven_src (s : State) (k : Nat) : (s.bytesGiven k).src = ⟨s.src.answers, s.src.taken + k⟩ := rfl
@[simp] theorem State.bytesGiven_snk (s : State) (k : Nat) : (s.bytesGiven k).snk = s.snk := rfl
@[simp] theorem State.bytesGiven_agenda (s : State) (k : Nat) : (s.bytesGiven k).agenda = s.agenda := rfl
@[simp] theorem State.bytesGiven_maxPayload (s : State) (k : Nat) : (s.bytesGiven k).maxPayload = s.maxPayload := rfl
@[simp] theorem State.bytesGiven_tick (s : State) (k : Nat) : (s.bytesGiven k).tick = s.tick := rfl
@[simp] theorem State.bytesGiven_offerCount (s : State) (k : Nat) : (s.bytesGiven k).offerCount = s.offerCount := rfl

/-! ### `takeReply` -/

@[simp] theorem State.takeReply_dec (s : State) : s.takeReply.dec = s.dec := rfl
@[simp] theorem State.takeReply_enc (s : State) : s.takeReply.enc = s.enc := rfl
@[simp] theorem State.takeReply_encPbuf (s : State) : s.takeReply.encPbuf = s.encPbuf := rfl
@[simp] theorem State.takeReply_src (s : State) : s.takeReply.src = s.src := rfl
@[simp] theorem State.takeReply_snk (s : State) : s.takeReply.snk = ⟨s.snk.answers.tail, s.snk.accepted, s.snk.written, s.snk.tentative, s.snk.abandoned⟩ := rfl
@[simp] theorem State.takeReply_agenda (s : State) : s.takeReply.agenda = s.agenda := rfl
@[simp] theorem State.takeReply_maxPayload (s : State) : s.takeReply.maxPayload = s.maxPayload := rfl
@[simp] theorem State.takeReply_tick (s : State) : s.takeReply.tick = s.tick := rfl
@[simp] theorem State.takeReply_offerCount (s : State) : s.takeReply.offerCount = s.offerCount := rfl

/-! ### `accept` -/

@[simp] theorem State.accept_dec (s : State) (v : Byte) : (s.accept v).dec = s.dec := rfl
@[simp] theorem State.accept_enc (s : State) (v : Byte) : (s.accept v).enc = s.enc := rfl
@[simp] theorem State.accept_encPbuf (s : State) (v : Byte) : (s.accept v).encPbuf = s.encPbuf := rfl
@[simp] theorem State.accept_src (s : State) (v : Byte) : (s.accept v).src = s.src := rfl
@[simp] theorem State.accept_snk (s : State) (v : Byte) : (s.accept v).snk = ⟨s.snk.answers, s.snk.accepted ++ [v], s.snk.written, s.snk.tentative ++ [v], s.snk.abandoned⟩ := rfl
@[simp] theorem State.accept_agenda (s : State) (v : Byte) : (s.accept v).agenda = s.agenda := rfl
@[simp] theorem State.accept_maxPayload (s : State) (v : Byte) : (s.accept v).maxPayload = s.maxPayload := rfl
@[simp] theorem State.accept_tick (s : State) (v : Byte) : (s.accept v).tick = s.tick := rfl
@[simp] theorem State.accept_offerCount (s : State) (v : Byte) : (s.accept v).offerCount = s.offerCount + 1 := by
  simp [State.offerCount, State.accept]; omega

/-! ### `commit` -/

@[simp] theorem State.commit_dec (s : State) : s.commit.dec = s.dec := rfl
@[simp] theorem State.commit_enc (s : State) : s.commit.enc = s.enc := rfl
@[simp] theorem State.commit_encPbuf (s : State) : s.commit.encPbuf = s.encPbuf := rfl
@[simp] theorem State.commit_src (s : State) : s.commit.src = s.src := rfl
@[simp] theorem State.commit_snk (s : State) : s.commit.snk = ⟨s.snk.answers, s.snk.accepted, s.snk.written ++ s.snk.tentative, [], s.snk.abandoned⟩ := rfl
@[simp] theorem State.commit_agenda (s : State) : s.commit.agenda = s.agenda := rfl
@[simp] theorem State.commit_maxPayload (s : State) : s.commit.maxPayload = s.maxPayload := rfl
@[simp] theorem State.commit_tick (s : State) : s.commit.tick = s.tick := rfl
@[simp] theorem State.commit_offerCount (s : State) : s.commit.offerCount = s.offerCount := rfl

/-! ### `requestTaken` -/

@[simp] theorem State.requestTaken_dec (s : State) (rest : List Request) : (s.requestTaken rest).dec = s.dec := rfl
@[simp] theorem State.requestTaken_enc (s : State) (rest : List Request) : (s.requestTaken rest).enc = s.enc := rfl
@[simp] theorem State.requestTaken_encPbuf (s : State) (rest : List Request) : (s.requestTaken rest).encPbuf = s.encPbuf := rfl
@[simp] theorem State.requestTaken_src (s : State) (rest : List Request) : (s.requestTaken rest).src = s.src := rfl
@[simp] theorem State.requestTaken_snk (s : State) (rest : List Request) : (s.requestTaken rest).snk = s.snk := rfl
@[simp] theorem State.requestTaken_agenda (s : State) (rest : List Request) : (s.requestTaken rest).agenda = rest := rfl
@[simp] theorem State.requestTaken_maxPayload (s : State) (rest : List Request) : (s.requestTaken rest).maxPayload = s.maxPayload := rfl
@[simp] theorem State.requestTaken_tick (s : State) (rest : List Request) : (s.requestTaken rest).tick = s.tick + 1 := rfl
@[simp] theorem State.requestTaken_offerCount (s : State) (rest : List Request) : (s.requestTaken rest).offerCount = s.offerCount := rfl

/-! ### `raise` on DEC -/

@[simp] theorem State.raise_dec_dec (s : State) (e : FrameError) : (s.raise .dec e).dec = s.dec.raise e := rfl
@[simp] theorem State.raise_dec_enc (s : State) (e : FrameError) : (s.raise .dec e).enc = s.enc := rfl
@[simp] theorem State.raise_dec_encPbuf (s : State) (e : FrameError) : (s.raise .dec e).encPbuf = s.encPbuf := rfl
@[simp] theorem State.raise_dec_src (s : State) (e : FrameError) : (s.raise .dec e).src = s.src := rfl
@[simp] theorem State.raise_dec_snk (s : State) (e : FrameError) : (s.raise .dec e).snk = s.snk := rfl
@[simp] theorem State.raise_dec_agenda (s : State) (e : FrameError) : (s.raise .dec e).agenda = s.agenda := rfl
@[simp] theorem State.raise_dec_maxPayload (s : State) (e : FrameError) : (s.raise .dec e).maxPayload = s.maxPayload := rfl
@[simp] theorem State.raise_dec_tick (s : State) (e : FrameError) : (s.raise .dec e).tick = s.tick := rfl
@[simp] theorem State.raise_dec_offerCount (s : State) (e : FrameError) : (s.raise .dec e).offerCount = s.offerCount := rfl

/-! ### `raise` on ENC -/

@[simp] theorem State.raise_enc_dec (s : State) (e : FrameError) : (s.raise .enc e).dec = s.dec := rfl
@[simp] theorem State.raise_enc_enc (s : State) (e : FrameError) : (s.raise .enc e).enc = s.enc.raise e := rfl
@[simp] theorem State.raise_enc_encPbuf (s : State) (e : FrameError) : (s.raise .enc e).encPbuf = s.encPbuf := rfl
@[simp] theorem State.raise_enc_src (s : State) (e : FrameError) : (s.raise .enc e).src = s.src := rfl
@[simp] theorem State.raise_enc_snk (s : State) (e : FrameError) : (s.raise .enc e).snk = s.snk.abandon := rfl
@[simp] theorem State.raise_enc_agenda (s : State) (e : FrameError) : (s.raise .enc e).agenda = s.agenda := rfl
@[simp] theorem State.raise_enc_maxPayload (s : State) (e : FrameError) : (s.raise .enc e).maxPayload = s.maxPayload := rfl
@[simp] theorem State.raise_enc_tick (s : State) (e : FrameError) : (s.raise .enc e).tick = s.tick := rfl
@[simp] theorem State.raise_enc_offerCount (s : State) (e : FrameError) : (s.raise .enc e).offerCount = s.offerCount + 1 := by
  simp [State.offerCount, State.raise, Sink.abandon]; omega

/-! ### `applyReset` -/

@[simp] theorem State.applyReset_dec (s : State) : s.applyReset.dec = Dec.reset := rfl
@[simp] theorem State.applyReset_enc (s : State) : s.applyReset.enc = Enc.reset := rfl
@[simp] theorem State.applyReset_encPbuf (s : State) : s.applyReset.encPbuf = s.encPbuf := rfl
@[simp] theorem State.applyReset_src (s : State) : s.applyReset.src = s.src := rfl
@[simp] theorem State.applyReset_agenda (s : State) : s.applyReset.agenda = s.agenda := rfl
@[simp] theorem State.applyReset_maxPayload (s : State) : s.applyReset.maxPayload = s.maxPayload := rfl
@[simp] theorem State.applyReset_tick (s : State) : s.applyReset.tick = s.tick := rfl

/-! ### A state with a part put back -/

@[simp] theorem State.withDec_self (s : State) : s.withDec s.dec = s := rfl
@[simp] theorem State.withEnc_self (s : State) : s.withEnc s.enc = s := rfl
@[simp] theorem State.withDec_withDec (s : State) (d d' : Dec) : (s.withDec d).withDec d' = s.withDec d' := rfl
@[simp] theorem State.withEnc_withEnc (s : State) (e e' : Enc) : (s.withEnc e).withEnc e' = s.withEnc e' := rfl

end Sys2Proof.Machine
end

