-- ==== Sys2Proof/Laws/Ops.lean ====
section
/-! SUPPORT. What the shared operations do: sequencing, phase selection, register reads, payload buffers. -/

namespace Sys2Proof.Machine

/-! ### Sequencing -/

@[simp] theorem andThen_next (s : State) (k : State → Out) : andThen (.next s) k = k s := rfl
@[simp] theorem andThen_fault (f : Fault) (k : State → Out) : andThen (.fault f) k = .fault f := rfl
@[simp] theorem andThen_refused (r : Refusal) (k : State → Out) : andThen (.refused r) k = .refused r := rfl

theorem andThen_eq_next {o : Out} {k : State → Out} {t : State} :
    andThen o k = .next t ↔ ∃ s, o = .next s ∧ k s = .next t := by
  cases o <;> simp

/-- A row of DEC that answers a next state ran in its phase, or DEC was IDLE and nothing changed. -/
theorem whenDec_eq_next {ph : DecPhase} {s t : State} {k : Out} (h : whenDec ph s k = .next t) :
    (s.dec.phase = ph ∧ k = .next t) ∨ (s.dec.phase ≠ ph ∧ s.dec.phase = .idle ∧ t = s) := by
  unfold whenDec at h
  split_ifs at h with h1 h2
  · exact .inl ⟨h1, h⟩
  · exact .inr ⟨h1, h2, (by simpa using h.symm)⟩

theorem whenEnc_eq_next {ph : EncPhase} {s t : State} {k : Out} (h : whenEnc ph s k = .next t) :
    (s.enc.phase = ph ∧ k = .next t) ∨ (s.enc.phase ≠ ph ∧ s.enc.phase = .idle ∧ t = s) := by
  unfold whenEnc at h
  split_ifs at h with h1 h2
  · exact .inl ⟨h1, h⟩
  · exact .inr ⟨h1, h2, (by simpa using h.symm)⟩

theorem whenDec_of_phase {ph : DecPhase} {s : State} (k : Out) (h : s.dec.phase = ph) : whenDec ph s k = k := by
  simp [whenDec, h]

theorem whenEnc_of_phase {ph : EncPhase} {s : State} (k : Out) (h : s.enc.phase = ph) : whenEnc ph s k = k := by
  simp [whenEnc, h]

/-! ### Registers that hold a value -/

@[simp] theorem flagOr_some (b : Bool) (u : Config.Unset) (t : Nat) : flagOr (some b) u t = b := rfl
@[simp] theorem bitsOr_some {w : Nat} (v : BitVec w) (u : Config.Unset) (t : Nat) : bitsOr (some v) u t = v := rfl

theorem Dec.lenV_of_some {d : Dec} {n : Len} (h : d.len = some n) (t : Nat) : d.lenV t = n := by simp [Dec.lenV, h]
theorem Dec.idxV_of_some {d : Dec} {n : Len} (h : d.idx = some n) (t : Nat) : d.idxV t = n := by simp [Dec.idxV, h]
theorem Dec.cntV_of_some {d : Dec} {n : BitVec 4} (h : d.cnt = some n) (t : Nat) : d.cntV t = n := by simp [Dec.cntV, h]
theorem Dec.maskedV_of_some {d : Dec} {b : Bool} (h : d.masked = some b) (t : Nat) : d.maskedV t = b := by
  simp [Dec.maskedV, h]
theorem Enc.lenV_of_some {e : Enc} {n : Len} (h : e.len = some n) (t : Nat) : e.lenV t = n := by simp [Enc.lenV, h]
theorem Enc.idxV_of_some {e : Enc} {n : Len} (h : e.idx = some n) (t : Nat) : e.idxV t = n := by simp [Enc.idxV, h]
theorem Enc.cntV_of_some {e : Enc} {n : BitVec 4} (h : e.cnt = some n) (t : Nat) : e.cntV t = n := by simp [Enc.cntV, h]
theorem Enc.maskedV_of_some {e : Enc} {b : Bool} (h : e.masked = some b) (t : Nat) : e.maskedV t = b := by
  simp [Enc.maskedV, h]
theorem Enc.finV_of_some {e : Enc} {b : Bool} (h : e.fin = some b) (t : Nat) : e.finV t = b := by simp [Enc.finV, h]
theorem Enc.opcV_of_some {e : Enc} {o : BitVec 4} (h : e.opc = some o) (t : Nat) : e.opcV t = o := by simp [Enc.opcV, h]

/-! ### Payload buffers -/

@[simp] theorem Memory.read_nil (a : Nat) : Memory.read [] a = none := rfl

theorem Memory.read_write_same (m : Memory) (a : Nat) (v : Byte) : (m.write a v).read a = some v := by
  induction m with
  | nil => simp [Memory.write, Memory.read]
  | cons c rest ih =>
    obtain ⟨b, x⟩ := c
    unfold Memory.write
    split_ifs with h1 h2
    · simp [Memory.read]
    · simp [Memory.read]
    · simp [Memory.read, h2, ih]

theorem Memory.read_write_other (m : Memory) {a b : Nat} (v : Byte) (h : b ≠ a) : (m.write a v).read b = m.read b := by
  induction m with
  | nil => simp [Memory.write, Memory.read, Ne.symm h]
  | cons c rest ih =>
    obtain ⟨k, x⟩ := c
    unfold Memory.write
    split_ifs with h1 h2
    · simp [Memory.read, Ne.symm h]
    · subst h2; simp [Memory.read, Ne.symm h]
    · simp [Memory.read, ih]

/-- The canonical form, as a fact about the list of indices. -/
theorem Memory.wf_iff_pairwise (m : Memory) : m.wf = true ↔ (m.map Prod.fst).Pairwise (· < ·) := by
  induction m with
  | nil => simp [Memory.wf]
  | cons c rest ih =>
    obtain ⟨a, x⟩ := c
    cases rest with
    | nil => simp [Memory.wf]
    | cons d rest =>
      obtain ⟨b, y⟩ := d
      simp only [Memory.wf, Bool.and_eq_true, decide_eq_true_eq, ih, List.map_cons, List.pairwise_cons, List.mem_cons,
        forall_eq_or_imp]
      constructor
      · rintro ⟨hab, hb, hr⟩
        exact ⟨⟨hab, fun c hc => lt_trans hab (hb c hc)⟩, hb, hr⟩
      · rintro ⟨⟨hab, -⟩, hb, hr⟩
        exact ⟨hab, hb, hr⟩

/-- The indices after a write are the old ones and the written one. -/
theorem Memory.mem_write_fst (m : Memory) (a : Nat) (v : Byte) {i : Nat} (h : i ∈ (m.write a v).map Prod.fst) :
    i = a ∨ i ∈ m.map Prod.fst := by
  induction m with
  | nil => simpa [Memory.write] using h
  | cons c rest ih =>
    obtain ⟨b, x⟩ := c
    unfold Memory.write at h
    split_ifs at h with h1 h2
    · simpa using h
    · simp only [List.map_cons, List.mem_cons] at h ⊢
      exact h.imp id .inr
    · simp only [List.map_cons, List.mem_cons] at h ⊢
      rcases h with h | h
      · exact .inr (.inl h)
      · exact (ih h).imp id .inr

/-- Every write keeps the canonical form. -/
theorem Memory.write_wf (m : Memory) (a : Nat) (v : Byte) (h : m.wf = true) : (m.write a v).wf = true := by
  rw [Memory.wf_iff_pairwise] at h ⊢
  induction m with
  | nil => simp [Memory.write]
  | cons c rest ih =>
    obtain ⟨b, x⟩ := c
    simp only [List.map_cons, List.pairwise_cons] at h
    unfold Memory.write
    split_ifs with h1 h2
    · simp only [List.map_cons, List.pairwise_cons, List.mem_cons]
      exact ⟨by rintro i (rfl | hi); exacts [h1, lt_trans h1 (h.1 i hi)], h.1, h.2⟩
    · subst h2
      simpa using h
    · simp only [List.map_cons, List.pairwise_cons]
      refine ⟨fun i hi => ?_, ih h.2⟩
      rcases Memory.mem_write_fst rest a v hi with rfl | hi
      · omega
      · exact h.1 i hi

/-- A write past the last cell appends. -/
theorem Memory.write_append (m : Memory) (a : Nat) (v : Byte) (h : ∀ i ∈ m.map Prod.fst, i < a) :
    m.write a v = m ++ [(a, v)] := by
  induction m with
  | nil => rfl
  | cons c rest ih =>
    obtain ⟨b, x⟩ := c
    have hb : b < a := h b (by simp)
    unfold Memory.write
    rw [if_neg (by omega), if_neg (by omega), ih (fun i hi => h i (by simp only [List.map_cons, List.mem_cons]; exact .inr hi))]
    rfl

end Sys2Proof.Machine
end

