-- ==== Sys2Proof/Laws/Runs.lean ====
section
/-! SUPPORT. The units' transfers and their runs: what one transfer can do, and the induction over a run, each said once. -/

namespace Sys2Proof.Machine

@[simp] theorem SrcAnswer.meaning_ofByte (v : Byte) : (SrcAnswer.ofByte v).meaning = .data v := rfl

/-- Everything a step of DEC other than DEC.START can do when it answers a next state: it writes DEC's registers and nothing
else. -/
def OnlyDec (s t : State) : Prop := ∃ d, t = s.withDec d

theorem OnlyDec.refl (s : State) : OnlyDec s s := ⟨s.dec, rfl⟩

theorem whenDec_onlyDec {ph : DecPhase} {s t : State} {d : Dec} (h : whenDec ph s (.next (s.withDec d)) = .next t) :
    OnlyDec s t := by
  rcases whenDec_eq_next h with ⟨-, h⟩ | ⟨-, -, rfl⟩
  · exact ⟨d, by simpa using h.symm⟩
  · exact .refl _

theorem decFailIn_onlyDec {ph : BitVec 3} {e : FrameError} {s t : State} (h : decFailIn ph e s = .next t) : OnlyDec s t := by
  unfold decFailIn at h
  split_ifs at h
  · exact ⟨s.dec.raise e, (Host.Outcome.next.inj h).symm⟩
  · exact ⟨s.dec, (Host.Outcome.next.inj h).symm⟩

theorem execDecPay_onlyDec {v : Byte} {s t : State} (h : execDecPay v s = .next t) : OnlyDec s t := by
  unfold execDecPay at h
  rcases whenDec_eq_next h with ⟨-, h⟩ | ⟨-, -, rfl⟩
  · split_ifs at h
    exact ⟨s.dec.takePay s.tick v, by simpa using h.symm⟩
  · exact .refl _

/-- The step that PHASE names for a data byte writes only DEC. -/
theorem decDataStep_onlyDec {v : Byte} {s t : State} (h : decDataStep v s = .next t) : OnlyDec s t := by
  unfold decDataStep at h
  split at h
  · exact ⟨s.dec, by simpa using h.symm⟩
  · exact whenDec_onlyDec h
  · exact whenDec_onlyDec h
  · exact whenDec_onlyDec h
  · exact whenDec_onlyDec h
  · exact execDecPay_onlyDec h

/-- One source transfer takes the answer and writes only DEC. -/
theorem decTransfer_onlyDec {a : SrcAnswer} {s t : State} (h : decTransfer a s = .next t) : OnlyDec (s.takeAnswer a) t := by
  unfold decTransfer at h
  split at h
  · exact decDataStep_onlyDec h
  · exact decFailIn_onlyDec h
  · exact decFailIn_onlyDec h

/-- The induction over a run of DEC: what one transfer keeps, the run keeps. -/
theorem decRun_keeps {go : DecPhase → Bool} {P : State → Prop}
    (hstep : ∀ a s t, go s.dec.phase = true → P s → decTransfer a s = .next t → P t) :
    ∀ (as : List SrcAnswer) (s t : State), P s → decRun go as s = .next t → P t := by
  intro as
  induction as with
  | nil => intro s t hs h; simp only [decRun, Host.Outcome.next.injEq] at h; exact h ▸ hs
  | cons a rest ih =>
    intro s t hs h
    unfold decRun at h
    split_ifs at h with hg
    · obtain ⟨u, hu, ht⟩ := andThen_eq_next.mp h
      exact ih u t (hstep a s u hg hs hu) ht
    · simp only [Host.Outcome.next.injEq] at h; exact h ▸ hs

/-- The induction over a run of ENC. -/
theorem encRun_keeps {go : EncPhase → Bool} {P : State → Prop}
    (hstep : ∀ a s t, go s.enc.phase = true → P s → encTransfer a s = .next t → P t) :
    ∀ (as : List SnkAnswer) (s t : State), P s → encRun go as s = .next t → P t := by
  intro as
  induction as with
  | nil => intro s t hs h; simp only [encRun, Host.Outcome.next.injEq] at h; exact h ▸ hs
  | cons a rest ih =>
    intro s t hs h
    unfold encRun at h
    split_ifs at h with hg
    · obtain ⟨u, hu, ht⟩ := andThen_eq_next.mp h
      exact ih u t (hstep a s u hg hs hu) ht
    · simp only [Host.Outcome.next.injEq] at h; exact h ▸ hs

/-- A step of ENC writes only ENC and the sink. -/
def OnlyEnc (s t : State) : Prop := ∃ e k, t = { s with enc := e, snk := k }

theorem OnlyEnc.refl (s : State) : OnlyEnc s s := ⟨s.enc, s.snk, rfl⟩

theorem OnlyEnc.trans {s t u : State} (h1 : OnlyEnc s t) (h2 : OnlyEnc t u) : OnlyEnc s u := by
  obtain ⟨e, k, rfl⟩ := h1
  obtain ⟨e', k', rfl⟩ := h2
  exact ⟨e', k', rfl⟩

theorem whenEnc_onlyEnc {ph : EncPhase} {s t u : State} (hu : OnlyEnc s u) (h : whenEnc ph s (.next u) = .next t) :
    OnlyEnc s t := by
  rcases whenEnc_eq_next h with ⟨-, h⟩ | ⟨-, -, rfl⟩
  · simp only [Host.Outcome.next.injEq] at h; exact h ▸ hu
  · exact .refl _

theorem execEncPay_onlyEnc {s t : State} (h : execEncPay s = .next t) : OnlyEnc s t := by
  unfold execEncPay at h
  rcases whenEnc_eq_next h with ⟨-, h⟩ | ⟨-, -, rfl⟩
  · split_ifs at h
    simp only [Host.Outcome.next.injEq] at h
    exact ⟨_, _, h.symm⟩
  · exact .refl _

theorem execEncFault_onlyEnc {ph : BitVec 3} {c : Cause} {s t : State} (h : execEncFault ph c s = .next t) : OnlyEnc s t := by
  unfold execEncFault at h
  split_ifs at h
  · simp only [Host.Outcome.next.injEq] at h; exact ⟨_, _, h.symm⟩
  · simp only [Host.Outcome.next.injEq] at h; exact h ▸ .refl _

/-- The step that PHASE names for an `Ok` answer writes only ENC and the sink. -/
theorem encOkStep_onlyEnc {s t : State} (h : encOkStep s = .next t) : OnlyEnc s t := by
  unfold encOkStep at h
  split at h
  · simp only [Host.Outcome.next.injEq] at h; exact h ▸ .refl _
  · exact whenEnc_onlyEnc ⟨_, _, rfl⟩ h
  · exact whenEnc_onlyEnc ⟨_, _, rfl⟩ h
  · exact whenEnc_onlyEnc ⟨_, _, rfl⟩ h
  · exact whenEnc_onlyEnc ⟨_, _, rfl⟩ h
  · exact execEncPay_onlyEnc h
  · exact whenEnc_onlyEnc ⟨_, _, rfl⟩ h

/-- One sink transfer writes only ENC and the sink. -/
theorem encTransfer_onlyEnc {a : SnkAnswer} {s t : State} (h : encTransfer a s = .next t) : OnlyEnc s t := by
  unfold encTransfer at h
  split at h
  · exact OnlyEnc.trans ⟨s.enc, _, rfl⟩ (encOkStep_onlyEnc h)
  · exact OnlyEnc.trans ⟨s.enc, _, rfl⟩ (execEncFault_onlyEnc h)

end Sys2Proof.Machine
end

