-- ==== Sys2Proof/Laws/Edge.lean ====
section
/-! SUPPORT. What DEC can do at an edge, said once, and that it does not touch what ENC offers (10_state.md R20, R50). -/

namespace Sys2Proof.Machine

/-- What ENC offers depends on ENC, the sink and the caller's buffer only. -/
theorem State.snkData_congr {s t : State} (henc : t.enc = s.enc) (hsnk : t.snk = s.snk) (hbuf : t.encPbuf = s.encPbuf) :
    t.snkData = s.snkData := by
  simp only [State.snkData, State.offerCount, henc, hsnk, hbuf]

/-- The row that PHASE and an answer name writes only DEC. -/
theorem decInstr_onlyDec {a : Answer} {i : Instr} {s t : State} (hi : decInstr s.dec.phase a = some i) (h : exec i s = .next t) :
    OnlyDec s t := by
  cases hp : s.dec.phase <;> cases a <;> simp only [hp, decInstr, Option.some.injEq, reduceCtorEq] at hi <;> subst hi <;> simp only [exec] at h
  all_goals first
    | exact whenDec_onlyDec h
    | exact decFailIn_onlyDec h
    | exact execDecPay_onlyDec h

/-- DEC at an edge starts, waits, or takes one answer of the source; whichever it is, only DEC and its source change. -/
theorem runSelected_dec_frame {w : Edge} {s t : State} (h : runSelected (decSelect w) s = .next t) :
    t = { s with dec := t.dec, src := t.src } := by
  unfold runSelected at h
  cases hsel : decSelect w s with
  | none =>
    rw [hsel] at h
    exact (Host.Outcome.next.inj h) ▸ rfl
  | some p =>
    obtain ⟨i, u⟩ := p
    rw [hsel] at h
    unfold decSelect at hsel
    split_ifs at hsel with hidle
    · obtain ⟨rfl, rfl⟩ := Prod.mk.inj (Option.some.inj hsel)
      simp only [exec, execDecStart, hidle, if_true] at h
      exact (Host.Outcome.next.inj h) ▸ rfl
    · split at hsel
      · cases hsel
      · split at hsel
        · cases hsel
        · rename_i a _ _ _ _ hi
          obtain ⟨rfl, rfl⟩ := Prod.mk.inj (Option.some.inj hsel)
          obtain ⟨d, rfl⟩ := decInstr_onlyDec (s := s.takeAnswer a) hi h
          rfl

end Sys2Proof.Machine
end

