-- ==== Sys2Proof/Laws/Idle.lean ====
section
/-! SUPPORT. What rows do while both units are IDLE: a row that is no start changes nothing (42_decode.md R172, 43_encode.md R202). -/

namespace Sys2Proof.Machine

theorem whenDec_idle {ph : DecPhase} {s : State} {k : Out} (hs : s.dec.phase = .idle) (hp : ph ≠ .idle) :
    whenDec ph s k = .next s := by
  simp [whenDec, hs, hp.symm]

theorem whenEnc_idle {ph : EncPhase} {s : State} {k : Out} (hs : s.enc.phase = .idle) (hp : ph ≠ .idle) :
    whenEnc ph s k = .next s := by
  simp [whenEnc, hs, hp.symm]

theorem headerOn_idle {side : Side} {f : FirstByte} {b1 : Byte} {s : State} (hd : s.dec.phase = .idle) (he : s.enc.phase = .idle) :
    headerOn side f b1 s = .next s := by
  cases side
  · exact whenDec_idle hd (by decide)
  · exact whenEnc_idle he (by decide)

theorem openingOn_idle {side : Side} {f : FirstByte} {b1 : Byte} {s : State} (hd : s.dec.phase = .idle) (he : s.enc.phase = .idle) :
    openingOn side f b1 s = .next s := by
  cases side
  · exact whenDec_idle hd (by decide)
  · exact whenEnc_idle he (by decide)

theorem decFailIn_idle {ph : BitVec 3} {e : FrameError} {s t : State} (hs : s.dec.phase = .idle)
    (h : decFailIn ph e s = .next t) : t = s := by
  unfold decFailIn at h
  split_ifs at h with h1 h2
  · rw [← h2, hs] at h1; exact absurd h1 (by decide)
  · exact (Host.Outcome.next.inj h).symm

theorem execEncFault_idle {ph : BitVec 3} {c : Cause} {s t : State} (hs : s.enc.phase = .idle)
    (h : execEncFault ph c s = .next t) : t = s := by
  unfold execEncFault at h
  split_ifs at h with h1 h2
  · rw [← h2, hs] at h1; exact absurd h1 (by decide)
  · exact (Host.Outcome.next.inj h).symm

/-- With both units IDLE a row that is no start changes nothing when it answers a next state. -/
theorem exec_idle {i : Instr} {s t : State} (hd : s.dec.phase = .idle) (he : s.enc.phase = .idle)
    (hi : Table.givesStart i.table = false) (h : exec i s = .next t) : t = s := by
  have ret {o : Out} (ho : o = .next s) (h : o = .next t) : t = s := Host.Outcome.next.inj (h.symm.trans ho)
  have guard {p : Prop} [Decidable p] {o : Out} {r : Refusal} (ho : o = .next s) (h : (if p then o else .refused r) = .next t) :
      t = s := by
    split_ifs at h
    exact ret ho h
  have whD {ph : DecPhase} (k : Out) (hp : ph ≠ .idle) : whenDec ph s k = .next s := whenDec_idle hd hp
  have whE {ph : EncPhase} (k : Out) (hp : ph ≠ .idle) : whenEnc ph s k = .next s := whenEnc_idle he hp
  cases i with
  | decode | encode p | decStart | encStart p => cases hi
  | hdrS side f l7 | hdrSM side f l7 => exact guard (headerOn_idle hd he) h
  | hdrE16 side f | hdrE16M side f | hdrE64 side f | hdrE64M side f => exact ret (headerOn_idle hd he) h
  | opCont side fin rsv b1 | opText side fin rsv b1 | opBin side fin rsv b1 | opRsvd3 side fin rsv b1 | opRsvd4 side fin rsv b1
  | opRsvd5 side fin rsv b1 | opRsvd6 side fin rsv b1 | opRsvd7 side fin rsv b1 | opClose side fin rsv b1 | opPing side fin rsv b1
  | opPong side fin rsv b1 | opRsvd11 side fin rsv b1 | opRsvd12 side fin rsv b1 | opRsvd13 side fin rsv b1 | opRsvd14 side fin rsv b1
  | opRsvd15 side fin rsv b1 => exact ret (openingOn_idle hd he) h
  | decHdr0 v | decHdr1 v | decExt v | decKey v | decPay v => exact ret (whD _ (by decide)) h
  | encHdr0 | encHdr1 | encExt | encKey | encPay | encFlush => exact ret (whE _ (by decide)) h
  | decEos ph | decFault ph c => exact decFailIn_idle hd h
  | encFault ph c => exact execEncFault_idle he h
  | lenD7 m l7 => exact guard (whD _ (by decide)) h
  | lenD16 m | lenD64 m => exact ret (whD _ (by decide)) h
  | lenE7 m l7 => exact guard (whE _ (by decide)) h
  | lenE16 m | lenE64 m => exact ret (whE _ (by decide)) h
  | lenChk m l7 => simp [exec, execLenChk, Dec.lengthComplete, DecPhase.busy, hd] at h
  | lenTier m l7 => simp [exec, execLenTier, he] at h
  | maskKey side l7 | maskXor side l7 | maskPass side l7 =>
    cases side <;> simp [exec, execMaskKey, execMaskXor, execMaskPass, payloadByteOn, hd, he] at h
end Sys2Proof.Machine
end

