-- ==== Sys2Proof/Laws/PerInstr.lean ====
section
/-! SUPPORT. Statements about every instruction, one lemma per constructor: the size of its word is its table's (30_encoding.md
R112: a start wire, a PHASE code and b1 are one byte here, b0 ++ b1 two). -/

namespace Sys2Proof.Laws.WordSize

/-- The number of bytes of a table's words. -/
def tableBytes : Table → Nat
  | .cmdDec => 1
  | .cmdEnc _ => 1
  | .hdr _ => 2
  | .opc _ => 2
  | .dstep _ => 1
  | .estep _ => 1
  | .sub _ => 1

/-- The word of an instruction has its table's size. -/
def Statement (i : Instr) : Prop := (encode i).length = tableBytes i.table

theorem decode : Statement (.decode) := rfl
theorem encode (ports : EncPorts) : Statement (.encode ports) := rfl
theorem hdrS (side : Side) (b0 : FirstByte) (l7 : BitVec 7) : Statement (.hdrS side b0 l7) := rfl
theorem hdrSM (side : Side) (b0 : FirstByte) (l7 : BitVec 7) : Statement (.hdrSM side b0 l7) := rfl
theorem hdrE16 (side : Side) (b0 : FirstByte) : Statement (.hdrE16 side b0) := rfl
theorem hdrE16M (side : Side) (b0 : FirstByte) : Statement (.hdrE16M side b0) := rfl
theorem hdrE64 (side : Side) (b0 : FirstByte) : Statement (.hdrE64 side b0) := rfl
theorem hdrE64M (side : Side) (b0 : FirstByte) : Statement (.hdrE64M side b0) := rfl
theorem opCont (side : Side) (fin : Bool) (rsv : BitVec 3) (b1 : Byte) : Statement (.opCont side fin rsv b1) := rfl
theorem opText (side : Side) (fin : Bool) (rsv : BitVec 3) (b1 : Byte) : Statement (.opText side fin rsv b1) := rfl
theorem opBin (side : Side) (fin : Bool) (rsv : BitVec 3) (b1 : Byte) : Statement (.opBin side fin rsv b1) := rfl
theorem opRsvd3 (side : Side) (fin : Bool) (rsv : BitVec 3) (b1 : Byte) : Statement (.opRsvd3 side fin rsv b1) := rfl
theorem opRsvd4 (side : Side) (fin : Bool) (rsv : BitVec 3) (b1 : Byte) : Statement (.opRsvd4 side fin rsv b1) := rfl
theorem opRsvd5 (side : Side) (fin : Bool) (rsv : BitVec 3) (b1 : Byte) : Statement (.opRsvd5 side fin rsv b1) := rfl
theorem opRsvd6 (side : Side) (fin : Bool) (rsv : BitVec 3) (b1 : Byte) : Statement (.opRsvd6 side fin rsv b1) := rfl
theorem opRsvd7 (side : Side) (fin : Bool) (rsv : BitVec 3) (b1 : Byte) : Statement (.opRsvd7 side fin rsv b1) := rfl
theorem opClose (side : Side) (fin : Bool) (rsv : BitVec 3) (b1 : Byte) : Statement (.opClose side fin rsv b1) := rfl
theorem opPing (side : Side) (fin : Bool) (rsv : BitVec 3) (b1 : Byte) : Statement (.opPing side fin rsv b1) := rfl
theorem opPong (side : Side) (fin : Bool) (rsv : BitVec 3) (b1 : Byte) : Statement (.opPong side fin rsv b1) := rfl
theorem opRsvd11 (side : Side) (fin : Bool) (rsv : BitVec 3) (b1 : Byte) : Statement (.opRsvd11 side fin rsv b1) := rfl
theorem opRsvd12 (side : Side) (fin : Bool) (rsv : BitVec 3) (b1 : Byte) : Statement (.opRsvd12 side fin rsv b1) := rfl
theorem opRsvd13 (side : Side) (fin : Bool) (rsv : BitVec 3) (b1 : Byte) : Statement (.opRsvd13 side fin rsv b1) := rfl
theorem opRsvd14 (side : Side) (fin : Bool) (rsv : BitVec 3) (b1 : Byte) : Statement (.opRsvd14 side fin rsv b1) := rfl
theorem opRsvd15 (side : Side) (fin : Bool) (rsv : BitVec 3) (b1 : Byte) : Statement (.opRsvd15 side fin rsv b1) := rfl
theorem decStart : Statement (.decStart) := rfl
theorem decHdr0 (v : Byte) : Statement (.decHdr0 v) := rfl
theorem decHdr1 (v : Byte) : Statement (.decHdr1 v) := rfl
theorem decExt (v : Byte) : Statement (.decExt v) := rfl
theorem decKey (v : Byte) : Statement (.decKey v) := rfl
theorem decPay (v : Byte) : Statement (.decPay v) := rfl
theorem decEos (phase : BitVec 3) : Statement (.decEos phase) := rfl
theorem decFault (phase : BitVec 3) (c : Cause) : Statement (.decFault phase c) := rfl
theorem encStart (ports : EncPorts) : Statement (.encStart ports) := rfl
theorem encHdr0 : Statement (.encHdr0) := rfl
theorem encHdr1 : Statement (.encHdr1) := rfl
theorem encExt : Statement (.encExt) := rfl
theorem encKey : Statement (.encKey) := rfl
theorem encPay : Statement (.encPay) := rfl
theorem encFlush : Statement (.encFlush) := rfl
theorem encFault (phase : BitVec 3) (c : Cause) : Statement (.encFault phase c) := rfl
theorem lenD7 (mask : Bool) (l7 : BitVec 7) : Statement (.lenD7 mask l7) := rfl
theorem lenD16 (mask : Bool) : Statement (.lenD16 mask) := rfl
theorem lenD64 (mask : Bool) : Statement (.lenD64 mask) := rfl
theorem lenChk (mask : Bool) (l7 : BitVec 7) : Statement (.lenChk mask l7) := rfl
theorem lenTier (mask : Bool) (l7 : BitVec 7) : Statement (.lenTier mask l7) := rfl
theorem lenE7 (mask : Bool) (l7 : BitVec 7) : Statement (.lenE7 mask l7) := rfl
theorem lenE16 (mask : Bool) : Statement (.lenE16 mask) := rfl
theorem lenE64 (mask : Bool) : Statement (.lenE64 mask) := rfl
theorem maskKey (side : Side) (l7 : BitVec 7) : Statement (.maskKey side l7) := rfl
theorem maskXor (side : Side) (l7 : BitVec 7) : Statement (.maskXor side l7) := rfl
theorem maskPass (side : Side) (l7 : BitVec 7) : Statement (.maskPass side l7) := rfl

end Sys2Proof.Laws.WordSize
end

