-- ==== Sys2Proof/Tests/Slice0.lean ====
section
/-! SUPPORT. Tests: the checks of WellFormed, words written out from the spec, worked examples of 95_test_vectors.md one step or one
operation at a time, and a witness for the hypotheses of every statement. Expected results are the spec's. -/

namespace Sys2Proof.Tests

open Sys2Proof Sys2Proof.Machine Sys2Proof.Spec

/-! ### Small states -/

/-- The machine after reset, with a payload buffer of `max` cells. -/
def mach (max : Len) : State := { State.reset with maxPayload := max }

/-- A source that will give these bytes. -/
def State.gives (s : State) (bs : List Byte) : State := { s with src := ⟨bs.map SrcAnswer.ofByte, 0⟩ }

/-- A source that will give these bytes, then an end of stream. -/
def State.givesThenEos (s : State) (bs : List Byte) : State :=
  { s with src := ⟨bs.map SrcAnswer.ofByte ++ [⟨1#2, 0#8, 0#Config.causeW⟩], 0⟩ }

/-- `k` answers `Ok` of a sink. -/
def oks (k : Nat) : List SnkAnswer := List.replicate k ⟨0#2, 0#Config.causeW⟩

/-- A sink that will answer so. -/
def State.sink (s : State) (as : List SnkAnswer) : State := { s with snk := ⟨as, [], [], [], []⟩ }

/-- DEC in a phase of a frame with FIN = 1 and opcode 1. -/
def decAt (ph : DecPhase) (m : Option Bool) (n : Option Len) (cnt : Option (BitVec 4)) : Dec :=
  { Dec.reset with fin := some true, opc := some 1#4, masked := m, len := n, cnt := cnt, phase := ph }

/-- ENC in a phase of a frame with FIN = 1 and opcode 9. -/
def encAt (ph : EncPhase) (m : Bool) (n : Len) (cnt : Option (BitVec 4)) : Enc :=
  { Enc.reset with
    fin := some true, opc := some 9#4, masked := some m, len := some n, cnt := cnt, phase := ph,
    key := if m then keyFile ⟨0x11#8, 0x22#8, 0x33#8, 0x44#8⟩ else KeyRegs.unset }

/-- The key of 95_test_vectors.md V2. -/
def keyV2 : KeyRegs := keyFile ⟨0x37#8, 0xFA#8, 0x21#8, 0x3D#8⟩

/-- Wires of an edge at which nothing is asked. -/
def quiet : Edge := ⟨false, false, false, false, ⟨false, 0#4, false, 0#32, 0#64⟩, false⟩

/-- An outcome is a next state with a property. -/
def ran (o : Out) (p : State → Bool) : Bool :=
  match o with
  | .next t => p t
  | .fault _ => false
  | .refused _ => false

/-! ### WellFormed refuses an ill-formed term of each check -/

theorem test_wf_tier7_header : (Instr.hdrS .dec ⟨true, 0#3, 1#4⟩ 126#7).wf = false ∧ (Instr.hdrS .dec ⟨true, 0#3, 1#4⟩ 125#7).wf = true := by
  decide
theorem test_wf_tier7_masked_header : (Instr.hdrSM .enc ⟨true, 0#3, 1#4⟩ 127#7).wf = false := by decide
theorem test_wf_tier7_read : (Instr.lenD7 true 126#7).wf = false := by decide
theorem test_wf_tier7_written : (Instr.lenE7 false 127#7).wf = false := by decide
theorem test_wf_eos_phase : (Instr.decEos 0#3).wf = false ∧ (Instr.decEos 6#3).wf = false ∧ (Instr.decEos 5#3).wf = true := by
  decide
theorem test_wf_dec_fault_phase (c : Cause) : (Instr.decFault 0#3 c).wf = false ∧ (Instr.decFault 6#3 c).wf = false :=
  ⟨rfl, rfl⟩
theorem test_wf_enc_fault_phase (c : Cause) :
    (Instr.encFault 0#3 c).wf = false ∧ (Instr.encFault 7#3 c).wf = false ∧ (Instr.encFault 6#3 c).wf = true := ⟨rfl, rfl, rfl⟩

/-! ### Words written out from the spec's encodings -/

/-- 30_encoding.md R108: a start wire that is high. -/
theorem test_decode_cmd (p : EncPorts) :
    decodeIn .cmdDec [1#8] = .ok (.decode, []) ∧ decodeIn (.cmdEnc p) [1#8] = .ok (.encode p, []) := ⟨rfl, rfl⟩

/-- 30_encoding.md R94 with the rows of 95_test_vectors.md 2.12, b0 bit by bit from R92. -/
theorem test_decode_hdr :
    decodeIn (.hdr .dec) [0b10000001#8, 0b00000101#8] = .ok (.hdrS .dec ⟨true, 0b000#3, 0b0001#4⟩ 5#7, []) ∧
    decodeIn (.hdr .dec) [0b10001010#8, 0b10000000#8] = .ok (.hdrSM .dec ⟨true, 0b000#3, 0b1010#4⟩ 0#7, []) ∧
    decodeIn (.hdr .dec) [0b00000010#8, 0b01111110#8] = .ok (.hdrE16 .dec ⟨false, 0b000#3, 0b0010#4⟩, []) ∧
    decodeIn (.hdr .enc) [0b10000010#8, 0b11111110#8] = .ok (.hdrE16M .enc ⟨true, 0b000#3, 0b0010#4⟩, []) ∧
    decodeIn (.hdr .dec) [0b11000010#8, 0b01111111#8] = .ok (.hdrE64 .dec ⟨true, 0b100#3, 0b0010#4⟩, []) ∧
    decodeIn (.hdr .dec) [0b01111111#8, 0b11111111#8] = .ok (.hdrE64M .dec ⟨false, 0b111#3, 0b1111#4⟩, []) :=
  ⟨rfl, rfl, rfl, rfl, rfl, rfl⟩

/-- 30_encoding.md R101: the low nibble of b0 is the row's value. -/
theorem test_decode_opc_named :
    decodeIn (.opc .dec) [0x00#8, 0xFD#8] = .ok (.opCont .dec false 0#3 0xFD#8, []) ∧
    decodeIn (.opc .dec) [0x81#8, 0x05#8] = .ok (.opText .dec true 0#3 0x05#8, []) ∧
    decodeIn (.opc .dec) [0x02#8, 0x7E#8] = .ok (.opBin .dec false 0#3 0x7E#8, []) ∧
    decodeIn (.opc .dec) [0x88#8, 0x7D#8] = .ok (.opClose .dec true 0#3 0x7D#8, []) ∧
    decodeIn (.opc .dec) [0x89#8, 0x00#8] = .ok (.opPing .dec true 0#3 0x00#8, []) ∧
    decodeIn (.opc .enc) [0x8A#8, 0x80#8] = .ok (.opPong .enc true 0#3 0x80#8, []) := ⟨rfl, rfl, rfl, rfl, rfl, rfl⟩

theorem test_decode_opc_reserved :
    decodeIn (.opc .dec) [0xF3#8, 0x7E#8] = .ok (.opRsvd3 .dec true 7#3 0x7E#8, []) ∧
    decodeIn (.opc .dec) [0x04#8, 0x00#8] = .ok (.opRsvd4 .dec false 0#3 0x00#8, []) ∧
    decodeIn (.opc .dec) [0x15#8, 0x00#8] = .ok (.opRsvd5 .dec false 1#3 0x00#8, []) ∧
    decodeIn (.opc .dec) [0x26#8, 0x00#8] = .ok (.opRsvd6 .dec false 2#3 0x00#8, []) ∧
    decodeIn (.opc .dec) [0x87#8, 0x00#8] = .ok (.opRsvd7 .dec true 0#3 0x00#8, []) ∧
    decodeIn (.opc .dec) [0x8B#8, 0x00#8] = .ok (.opRsvd11 .dec true 0#3 0x00#8, []) ∧
    decodeIn (.opc .dec) [0x0C#8, 0x00#8] = .ok (.opRsvd12 .dec false 0#3 0x00#8, []) ∧
    decodeIn (.opc .dec) [0xCD#8, 0x00#8] = .ok (.opRsvd13 .dec true 4#3 0x00#8, []) ∧
    decodeIn (.opc .dec) [0x0E#8, 0x00#8] = .ok (.opRsvd14 .dec false 0#3 0x00#8, []) ∧
    decodeIn (.opc .dec) [0x8F#8, 0x01#8] = .ok (.opRsvd15 .dec true 0#3 0x01#8, []) :=
  ⟨rfl, rfl, rfl, rfl, rfl, rfl, rfl, rfl, rfl, rfl⟩

/-- 10_state.md R30 and 30_encoding.md R109: PHASE selects the decoder's step. -/
theorem test_decode_dstep (c : Cause) :
    decodeIn (.dstep .start) [0#8] = .ok (.decStart, []) ∧
    decodeIn (.dstep (.data 0x81#8)) [1#8] = .ok (.decHdr0 0x81#8, []) ∧
    decodeIn (.dstep (.data 0x85#8)) [2#8] = .ok (.decHdr1 0x85#8, []) ∧
    decodeIn (.dstep (.data 0x04#8)) [3#8] = .ok (.decExt 0x04#8, []) ∧
    decodeIn (.dstep (.data 0x37#8)) [4#8] = .ok (.decKey 0x37#8, []) ∧
    decodeIn (.dstep (.data 0x7F#8)) [5#8] = .ok (.decPay 0x7F#8, []) ∧
    decodeIn (.dstep .eos) [3#8] = .ok (.decEos 3#3, []) ∧
    decodeIn (.dstep (.fault c)) [5#8] = .ok (.decFault 5#3 c, []) := ⟨rfl, rfl, rfl, rfl, rfl, rfl, rfl, rfl⟩

/-- 10_state.md R44 and 30_encoding.md R109: PHASE selects the encoder's step. -/
theorem test_decode_estep (p : EncPorts) (c : Cause) :
    decodeIn (.estep (.start p)) [0#8] = .ok (.encStart p, []) ∧
    decodeIn (.estep .ok) [1#8] = .ok (.encHdr0, []) ∧
    decodeIn (.estep .ok) [2#8] = .ok (.encHdr1, []) ∧
    decodeIn (.estep .ok) [3#8] = .ok (.encExt, []) ∧
    decodeIn (.estep .ok) [4#8] = .ok (.encKey, []) ∧
    decodeIn (.estep .ok) [5#8] = .ok (.encPay, []) ∧
    decodeIn (.estep .ok) [6#8] = .ok (.encFlush, []) ∧
    decodeIn (.estep (.fault c)) [6#8] = .ok (.encFault 6#3 c, []) := ⟨rfl, rfl, rfl, rfl, rfl, rfl, rfl, rfl⟩

/-- 30_encoding.md R112: the rows over b1. -/
theorem test_decode_sub :
    decodeIn (.sub .lenD7) [0x7D#8] = .ok (.lenD7 false 125#7, []) ∧
    decodeIn (.sub .lenD16) [0xFE#8] = .ok (.lenD16 true, []) ∧
    decodeIn (.sub .lenD64) [0x7F#8] = .ok (.lenD64 false, []) ∧
    decodeIn (.sub .lenChk) [0x05#8] = .ok (.lenChk false 5#7, []) ∧
    decodeIn (.sub .lenTier) [0xFE#8] = .ok (.lenTier true 126#7, []) ∧
    decodeIn (.sub .lenE7) [0x85#8] = .ok (.lenE7 true 5#7, []) ∧
    decodeIn (.sub .lenE16) [0x7E#8] = .ok (.lenE16 false, []) ∧
    decodeIn (.sub .lenE64) [0xFF#8] = .ok (.lenE64 true, []) ∧
    decodeIn (.sub (.maskKey .dec)) [0x85#8] = .ok (.maskKey .dec 5#7, []) ∧
    decodeIn (.sub (.maskXor .enc)) [0x85#8] = .ok (.maskXor .enc 5#7, []) ∧
    decodeIn (.sub (.maskPass .dec)) [0x05#8] = .ok (.maskPass .dec 5#7, []) :=
  ⟨rfl, rfl, rfl, rfl, rfl, rfl, rfl, rfl, rfl, rfl, rfl⟩

theorem test_decode_rejects :
    decodeIn .cmdDec [0#8] = .error .startWireLow ∧ decodeIn .cmdDec [2#8] = .error .notInDomain ∧
    decodeIn (.hdr .dec) [0x81#8] = .error .tooShort ∧ decodeIn (.opc .dec) [] = .error .tooShort ∧
    decodeIn (.dstep (.data 0#8)) [6#8] = .error .noStepInPhase ∧ decodeIn (.dstep .eos) [0#8] = .error .noStepInPhase ∧
    decodeIn (.dstep .eos) [8#8] = .error .notInDomain ∧ decodeIn (.estep .ok) [7#8] = .error .noStepInPhase ∧
    decodeIn (.sub .lenD7) [0x7E#8] = .error .rowDoesNotMatch ∧ decodeIn (.sub (.maskKey .dec)) [0x05#8] = .error .rowDoesNotMatch :=
  ⟨rfl, rfl, rfl, rfl, rfl, rfl, rfl, rfl, rfl, rfl⟩

/-- 10_state.md R30, R32, R44: the codes on the ports. -/
theorem test_codes :
    [DecPhase.idle, .hdr0, .hdr1, .ext, .key, .pay].map DecPhase.code = [0, 1, 2, 3, 4, 5] ∧
    [EncPhase.idle, .hdr0, .hdr1, .ext, .key, .pay, .flush].map EncPhase.code = [0, 1, 2, 3, 4, 5, 6] ∧
    [Result.noResult, .ok, .truncated, .lengthOverflow, .io].map Result.code = [0, 1, 2, 3, 4] := by decide

/-! ### The decoder's steps: traces 2.7, 2.8, 2.9 of 95_test_vectors.md -/

theorem test_dec_start : exec .decStart (mach 1000#64) = .next ((mach 1000#64).withDec { Dec.reset with phase := .hdr0 }) := rfl

theorem test_dec_hdr0 : ran (exec (.decHdr0 0x81#8) ((mach 1000#64).withDec Dec.started))
    (fun t => t.dec = decAt .hdr1 none none none) = true := by decide

theorem test_dec_hdr1_masked : ran (exec (.decHdr1 0x85#8) ((mach 1000#64).withDec (decAt .hdr1 none none none)))
    (fun t => t.dec = decAt .key (some true) (some 5#64) (some 4#4)) = true := by decide

/-- Vector LC7: a tier-7 length is checked too. -/
theorem test_dec_hdr1_overflow : ran (exec (.decHdr1 0x05#8) ((mach 4#64).withDec (decAt .hdr1 none none none)))
    (fun t => t.dec = { Dec.reset with res := .lengthOverflow }) = true := by decide

theorem test_dec_ext_first : ran (exec (.decExt 0x00#8) ((mach 1000#64).withDec (decAt .ext (some false) (some 0#64) (some 2#4))))
    (fun t => t.dec = decAt .ext (some false) (some 0#64) (some 1#4)) = true := by decide

/-- Trace 2.9, event 5: 0x0401 = 1025 is above 1024. -/
theorem test_dec_ext_overflow : ran (exec (.decExt 0x01#8) ((mach 1024#64).withDec (decAt .ext (some false) (some 4#64) (some 1#4))))
    (fun t => t.dec = { Dec.reset with res := .lengthOverflow, cnt := some 0#4 }) = true := by decide

theorem test_dec_key_second :
    ran (exec (.decKey 0xFA#8)
        ((mach 1000#64).withDec { decAt .key (some true) (some 5#64) (some 3#4) with key := ⟨some 0x37#8, none, none, none⟩ }))
      (fun t => t.dec =
        { decAt .key (some true) (some 5#64) (some 2#4) with key := ⟨some 0x37#8, some 0xFA#8, none, none⟩ }) = true := by
  decide

/-- Vector T12: the last key byte of an empty masked frame completes it. -/
theorem test_dec_key_last_of_empty :
    ran (exec (.decKey 0x3D#8)
        ((mach 0#64).withDec
          { decAt .key (some true) (some 0#64) (some 1#4) with key := ⟨some 0x37#8, some 0xFA#8, some 0x21#8, none⟩ }))
      (fun t => t.dec = { decAt .idle (some true) (some 0#64) (some 0#4) with key := keyV2, idx := some 0#64, res := .ok }) = true := by
  decide

theorem test_dec_pay_second :
    ran (exec (.decPay 0x9F#8)
        ((mach 1000#64).withDec
          { decAt .pay (some true) (some 5#64) (some 0#4) with key := keyV2, idx := some 1#64, pbuf := [(0, 0x48#8)] }))
      (fun t => t.dec =
        { decAt .pay (some true) (some 5#64) (some 0#4) with
          key := keyV2, idx := some 2#64, pbuf := [(0, 0x48#8), (1, 0x65#8)] }) = true := by decide

/-- Trace 2.7, event 12: byte 4 is unmasked with K[0] again. -/
theorem test_dec_pay_last :
    ran (exec (.decPay 0x58#8)
        ((mach 5#64).withDec { decAt .pay (some true) (some 5#64) (some 0#4) with key := keyV2, idx := some 4#64 }))
      (fun t => t.dec =
        { decAt .idle (some true) (some 5#64) (some 0#4) with key := keyV2, idx := some 5#64, res := .ok, pbuf := [(4, 0x6F#8)] }) =
    true := by decide

/-- Vector T5. -/
theorem test_dec_eos : ran (exec (.decEos 3#3) ((mach 1000#64).withDec (decAt .ext (some false) (some 0#64) (some 1#4))))
    (fun t => t.dec = { Dec.reset with res := .truncated, cnt := some 1#4 }) = true := by decide

/-- Vector F3: the cause is kept, no Frame. -/
theorem test_dec_fault (c : Cause) :
    exec (.decFault 5#3 c) ((mach 9#64).withDec { decAt .pay (some false) (some 5#64) none with idx := some 4#64 }) =
      .next ((mach 9#64).withDec { Dec.reset with idx := some 4#64, res := .io, cause := some c }) := rfl

/-! ### The encoder's steps: traces 2.10 and 2.11 -/

/-- 10_state.md R50: K[0] is bits 31 to 24 of the key port. -/
theorem test_enc_start :
    ran (exec (.encStart ⟨true, 9#4, true, 0x11223344#32, 6#64⟩) (mach 6#64)) (fun t => t.enc = encAt .hdr0 true 6#64 none) = true := by
  decide

theorem test_enc_hdr0 : ran (exec .encHdr0 ((mach 9#64).withEnc (encAt .hdr0 true 0#64 none)))
    (fun t => t.enc = encAt .hdr1 true 0#64 none && t.snk.accepted = [0x89#8] && t.snk.written = []) = true := by decide

theorem test_enc_hdr1_masked : ran (exec .encHdr1 ((mach 9#64).withEnc (encAt .hdr1 true 0#64 none)))
    (fun t => t.enc = encAt .key true 0#64 (some 4#4) && t.snk.accepted = [0x80#8]) = true := by decide

/-- Vector E11. -/
theorem test_enc_hdr1_tier64 : ran (exec .encHdr1 ((mach 65536#64).withEnc (encAt .hdr1 false 65536#64 none)))
    (fun t => t.enc = encAt .ext false 65536#64 (some 8#4) && t.snk.accepted = [0x7F#8]) = true := by decide

/-- Vector LE8: 300 is written 01 2C. -/
theorem test_enc_ext_high : ran (exec .encExt ((mach 300#64).withEnc (encAt .ext false 300#64 (some 2#4))))
    (fun t => t.enc = encAt .ext false 300#64 (some 1#4) && t.snk.accepted = [0x01#8]) = true := by decide

theorem test_enc_ext_low : ran (exec .encExt ((mach 300#64).withEnc (encAt .ext false 300#64 (some 1#4))))
    (fun t => t.enc = { encAt .pay false 300#64 (some 0#4) with idx := some 0#64 } && t.snk.accepted = [0x2C#8]) = true := by decide

theorem test_enc_key_second : ran (exec .encKey ((mach 9#64).withEnc (encAt .key true 0#64 (some 3#4))))
    (fun t => t.enc = encAt .key true 0#64 (some 2#4) && t.snk.accepted = [0x22#8]) = true := by decide

theorem test_enc_key_last : ran (exec .encKey ((mach 9#64).withEnc (encAt .key true 0#64 (some 1#4))))
    (fun t => t.enc = { encAt .flush true 0#64 (some 0#4) with idx := some 0#64 } && t.snk.accepted = [0x44#8]) = true := by decide

/-- Vector M7: byte 4 of the payload, 05, goes out as 14, masked with K[0] = 11. -/
theorem test_enc_pay :
    ran (exec .encPay { (mach 9#64).withEnc { encAt .pay true 6#64 (some 0#4) with idx := some 4#64 } with encPbuf := [(4, 0x05#8)] })
      (fun t => t.enc = { encAt .pay true 6#64 (some 0#4) with idx := some 5#64 } && t.snk.accepted = [0x14#8]) = true := by decide

theorem test_enc_flush :
    ran (exec .encFlush { (mach 9#64).withEnc (encAt .flush true 0#64 (some 0#4)) with snk := ⟨[], [1#8], [7#8], [1#8], []⟩ })
      (fun t => t.enc = { encAt .idle true 0#64 (some 0#4) with res := .ok } && t.snk.written = [7#8, 1#8] && t.snk.tentative = []) = true := by
  decide

/-- Vector EF2: the tentative bytes are not written. -/
theorem test_enc_fault (c : Cause) :
    exec (.encFault 5#3 c) { (mach 9#64).withEnc (encAt .pay false 5#64 none) with snk := ⟨[], [0x81#8, 5#8], [], [0x81#8, 5#8], []⟩ } =
      .next { (mach 9#64).withEnc { encAt .idle false 5#64 none with res := .io, cause := some c } with
        snk := ⟨[], [0x81#8, 5#8], [], [], [[0x81#8, 5#8]]⟩ } := rfl

/-! ### The length and mask families: vectors LD, LC, LE, M -/

/-- Vector LD3. -/
theorem test_len_d7 : ran (exec (.lenD7 false 125#7) ((mach 125#64).withDec (decAt .hdr1 none none none)))
    (fun t => t.dec = { decAt .pay (some false) (some 125#64) none with idx := some 0#64 } && t.src.taken = 1) = true := by decide

/-- Vector LD6: the high byte is first. -/
theorem test_len_d16 :
    ran (exec (.lenD16 true) (State.gives ((mach 1000#64).withDec (decAt .hdr1 none none none)) [0x01#8, 0x00#8]))
      (fun t => t.dec = decAt .key (some true) (some 256#64) (some 4#4) && t.src.taken = 3) = true := by decide

/-- Vector LD18: bit 63 is a value bit. -/
theorem test_len_d64 :
    ran (exec (.lenD64 true) (State.gives ((mach 0xFFFFFFFFFFFFFFFF#64).withDec (decAt .hdr1 none none none))
        [0x80#8, 0#8, 0#8, 0#8, 0#8, 0#8, 0#8, 0#8]))
      (fun t => t.dec = decAt .key (some true) (some 0x8000000000000000#64) (some 4#4)) = true := by decide

/-- Vectors LC1 and LC2: the test is `>`. -/
theorem test_len_chk_passes : exec (.lenChk false 126#7) ((mach 1024#64).withDec (decAt .key (some true) (some 1024#64) (some 4#4))) =
    .next ((mach 1024#64).withDec (decAt .key (some true) (some 1024#64) (some 4#4))) := rfl
theorem test_len_chk_fails :
    ran (exec (.lenChk false 126#7) ((mach 1024#64).withDec (decAt .hdr1 (some false) (some 1025#64) none)))
      (fun t => t.dec = { Dec.reset with res := .lengthOverflow }) = true := by decide

/-- Vectors LE3, LE4, LE10, LE11: the bounds of the tiers. -/
theorem test_len_tier :
    ran (exec (.lenTier false 0#7) ((mach 9#64).withEnc (encAt .hdr1 false 125#64 none))) (fun t => t.enc.cnt = some 0#4) = true ∧
    ran (exec (.lenTier false 0#7) ((mach 9#64).withEnc (encAt .hdr1 false 126#64 none))) (fun t => t.enc.cnt = some 2#4) = true ∧
    ran (exec (.lenTier false 0#7) ((mach 9#64).withEnc (encAt .hdr1 false 65535#64 none))) (fun t => t.enc.cnt = some 2#4) = true ∧
    ran (exec (.lenTier false 0#7) ((mach 9#64).withEnc (encAt .hdr1 false 65536#64 none))) (fun t => t.enc.cnt = some 8#4) = true := by
  decide

/-- Vector LE3. -/
theorem test_len_e7 : ran (exec (.lenE7 true 125#7) (State.sink ((mach 125#64).withEnc (encAt .hdr1 true 125#64 none)) (oks 1)))
    (fun t => t.snk.accepted = [0xFD#8] && t.enc.phase = .key) = true := by decide

/-- Vector LE4. -/
theorem test_len_e16 : ran (exec (.lenE16 false) (State.sink ((mach 126#64).withEnc (encAt .hdr1 false 126#64 none)) (oks 3)))
    (fun t => t.snk.accepted = [0x7E#8, 0x00#8, 0x7E#8] && t.enc.phase = .pay) = true := by decide

/-- Vector LE12. -/
theorem test_len_e64 : ran (exec (.lenE64 false) (State.sink ((mach 65537#64).withEnc (encAt .hdr1 false 65537#64 none)) (oks 9)))
    (fun t => t.snk.accepted = [0x7F#8, 0#8, 0#8, 0#8, 0#8, 0#8, 1#8, 0#8, 1#8] && t.enc.phase = .pay) = true := by decide

/-- V2. -/
theorem test_mask_key_read :
    ran (exec (.maskKey .dec 5#7)
        (State.gives ((mach 9#64).withDec (decAt .key (some true) (some 5#64) (some 4#4))) [0x37#8, 0xFA#8, 0x21#8, 0x3D#8]))
      (fun t => t.dec.key = keyV2 && t.dec.phase = .pay) = true := by decide
theorem test_mask_key_written :
    ran (exec (.maskKey .enc 0#7) (State.sink ((mach 9#64).withEnc (encAt .key true 0#64 (some 4#4))) (oks 4)))
      (fun t => t.snk.accepted = [0x11#8, 0x22#8, 0x33#8, 0x44#8] && t.enc.phase = .flush) = true := by decide

/-- Vector M2, first byte; vector M7, third byte. -/
theorem test_mask_xor_read :
    ran (exec (.maskXor .dec 5#7)
        (State.gives ((mach 9#64).withDec { decAt .pay (some true) (some 5#64) none with key := keyV2, idx := some 0#64 }) [0x7F#8]))
      (fun t => t.dec.pbuf = [(0, 0x48#8)]) = true := by decide
theorem test_mask_xor_written :
    ran (exec (.maskXor .enc 6#7)
        (State.sink { (mach 9#64).withEnc { encAt .pay true 6#64 none with idx := some 2#64 } with encPbuf := [(2, 0x03#8)] } (oks 1)))
      (fun t => t.snk.accepted = [0x30#8]) = true := by decide

/-- V1. -/
theorem test_mask_pass_read :
    ran (exec (.maskPass .dec 5#7)
        (State.gives ((mach 9#64).withDec { decAt .pay (some false) (some 5#64) none with idx := some 0#64 }) [0x48#8]))
      (fun t => t.dec.pbuf = [(0, 0x48#8)]) = true := by decide
theorem test_mask_pass_written :
    ran (exec (.maskPass .enc 1#7)
        (State.sink { (mach 9#64).withEnc { encAt .pay false 1#64 none with idx := some 0#64 } with encPbuf := [(0, 0xAA#8)] } (oks 1)))
      (fun t => t.snk.accepted = [0xAA#8] && t.enc.phase = .flush) = true := by decide

/-! ### Headers and opcodes -/

/-- Vector LD10 with a key: a length in a larger tier than it needs is accepted. -/
theorem test_hdr_e16m_read :
    ran (exec (.hdrE16M .dec ⟨true, 5#3, 2#4⟩) (State.gives ((mach 9#64).withDec Dec.started) [0#8, 5#8, 1#8, 2#8, 3#8, 4#8]))
      (fun t => t.dec.phase = .pay && t.dec.len = some 5#64 && t.dec.opc = some 2#4 && t.src.taken = 8) = true := by decide

/-- Vector E8. -/
theorem test_hdr_e16m_written :
    ran (exec (.hdrE16M .enc ⟨true, 0#3, 9#4⟩) (State.sink ((mach 126#64).withEnc (encAt .hdr0 true 126#64 none)) (oks 9)))
      (fun t => t.snk.accepted = [0x89#8, 0xFE#8, 0x00#8, 0x7E#8, 0x11#8, 0x22#8, 0x33#8, 0x44#8] && t.enc.phase = .pay) = true := by
  decide

/-- Vector O3: the overflow is found before the key is read. -/
theorem test_hdr_e64m_overflow :
    ran (exec (.hdrE64M .dec ⟨true, 0#3, 2#4⟩) (State.gives ((mach 2147483647#64).withDec Dec.started)
        [0xFF#8, 0xFF#8, 0xFF#8, 0xFF#8, 0xFF#8, 0xFF#8, 0xFF#8, 0xFF#8, 1#8, 2#8, 3#8, 4#8]))
      (fun t => t.dec.res = .lengthOverflow && t.src.taken = 10 && t.src.answers.length = 4) = true := by decide

/-- Vector T11. -/
theorem test_hdr_s_empty : ran (exec (.hdrS .dec ⟨true, 0#3, 1#4⟩ 0#7) ((mach 0#64).withDec Dec.started))
    (fun t => t.dec.res = .ok && t.dec.phase = .idle) = true := by decide

/-- Vectors E23 and D1: a reserved opcode and reserved bits are carried or dropped, never refused. -/
theorem test_opc_reserved :
    ran (exec (.opRsvd15 .dec true 7#3 1#8) ((mach 9#64).withDec Dec.started))
      (fun t => t.dec.opc = some 15#4 && t.dec.fin = some true && t.dec.phase = .pay) = true := by decide

/-- Vector E26. -/
theorem test_opc_ping_written :
    ran (exec (.opPing .enc true 0#3 0x80#8) (State.sink ((mach 9#64).withEnc (encAt .hdr0 true 0#64 none)) (oks 2)))
      (fun t => t.snk.accepted = [0x89#8, 0x80#8] && t.enc.phase = .key) = true := by decide

/-! ### Whole operations -/

/-- V2: eleven transfers. -/
theorem test_decode_masked_text :
    ran (exec .decode (State.gives (mach 9#64) [0x81#8, 0x85#8, 0x37#8, 0xFA#8, 0x21#8, 0x3D#8, 0x7F#8, 0x9F#8, 0x4D#8, 0x51#8, 0x58#8]))
      (fun t => t.dec.frame = some ⟨true, 1#4, true, some ⟨0x37#8, 0xFA#8, 0x21#8, 0x3D#8⟩, [0x48#8, 0x65#8, 0x6C#8, 0x6C#8, 0x6F#8]⟩ &&
        t.dec.res = .ok && t.src.taken = 11) = true := by decide

/-- Vector T4. -/
theorem test_decode_truncated :
    ran (exec .decode (State.givesThenEos (mach 9#64) [0x81#8, 0x05#8, 0x48#8, 0x65#8, 0x6C#8, 0x6C#8]))
      (fun t => t.dec.frame = none && t.dec.pbuf = [] && t.dec.res = .truncated && t.src.taken = 6) = true := by decide

/-- Vector E25. -/
theorem test_encode_masked_ping :
    ran (exec (.encode ⟨true, 9#4, true, 0x11223344#32, 6#64⟩)
        (State.sink { mach 6#64 with encPbuf := [(0, 1#8), (1, 2#8), (2, 3#8), (3, 4#8), (4, 5#8), (5, 6#8)] } (oks 13)))
      (fun t => t.snk.written = [0x89#8, 0x86#8, 0x11#8, 0x22#8, 0x33#8, 0x44#8, 0x10#8, 0x20#8, 0x30#8, 0x40#8, 0x14#8, 0x24#8] &&
        t.enc.res = .ok && t.snk.answers.isEmpty) = true := by decide

/-- Vector EF1: a fault at the first byte. -/
theorem test_encode_fault (c : Cause) :
    ran (exec (.encode ⟨true, 1#4, false, 0#32, 0#64⟩) (State.sink (mach 6#64) [⟨2#2, c⟩]))
      (fun t => t.enc.res = .io && t.snk.accepted.isEmpty && t.snk.written.isEmpty) = true := rfl

/-! ### Steps -/

/-- P7: in the cycle of a start only the start is accepted. -/
theorem test_step_start :
    ran (step { State.gives (mach 9#64) [0x89#8] with agenda := [.edge { quiet with decStart := true, srcAck := true }] })
      (fun t => t.dec = Dec.started && t.src.taken = 0) = true := by decide

/-- P6: both units move at one edge. -/
theorem test_step_both_units :
    ran (step { State.sink (State.gives ((mach 9#64).withDec Dec.started) [0x81#8]) (oks 1) with
        enc := encAt .hdr0 false 1#64 none, agenda := [.edge { quiet with srcAck := true, snkAck := true }] })
      (fun t => t.dec.phase = .hdr1 && t.snk.accepted = [0x89#8] && t.src.taken = 1) = true := by decide

/-- P5: reset in the middle of a key; the source keeps its place. -/
theorem test_step_reset :
    ran (step { (mach 9#64).withDec (decAt .key (some true) (some 5#64) (some 2#4)) with
        src := ⟨[], 4⟩, agenda := [.edge { quiet with rst := true, srcAck := true }] })
      (fun t => t.dec = Dec.reset && t.src.taken = 4) = true := by decide

/-- The next step runs the instruction of a bare table word. -/
theorem test_fetch_word :
    decodeTableWord 16 0x8105 = some (.opText .dec true 0#3 0x05#8) ∧
    ran (step ((mach 9#64).withFetchWord 16 0x8105)) (fun t => t.dec.opc = some 1#4 && t.dec.phase = .pay) = true := by decide

/-! ### Witnesses: concrete states and operands that meet the hypotheses of each statement, each clause at a boundary -/

/-- A machine with DEC so. -/
def withD (d : Dec) : State := (mach 5#64).withDec d

/-- A machine with ENC so. -/
def withE (e : Enc) : State := (mach 65536#64).withEnc e

/-- A machine with these requests. -/
def State.asked (s : State) (rs : List Request) : State := { s with agenda := rs }

/-- Two members of a list. -/
theorem both {α : Type} {p : α → Prop} {a b : α} (ha : p a) (hb : p b) : ∀ x ∈ [a, b], p x := by
  intro x hx
  simp only [List.mem_cons, List.not_mem_nil, or_false] at hx
  rcases hx with rfl | rfl
  · exact ha
  · exact hb

theorem witness_ResetStateHoldsNoValues :
    ∃ s w rest t, s = State.asked (withE (encAt .pay false 5#64 none)) [.edge { quiet with rst := true, srcAck := true }] ∧
      s.agenda = .edge w :: rest ∧ w.rst = true ∧ step s = .next t ∧ s.enc.phase ≠ .idle :=
  ⟨_, _, _, _, rfl, rfl, rfl, rfl, by decide⟩

theorem witness_ResetEdgeAbandonsOperation :
    (∃ s w rest, s = State.asked (withE (encAt .pay false 5#64 none)) [.edge { quiet with rst := true, srcAck := true }] ∧
      s.agenda = .edge w :: rest ∧ w.rst = true ∧ s.enc.phase ≠ .idle) ∧
    (∃ s w rest, s = State.asked State.reset [.edge { quiet with rst := true, decStart := true }] ∧
      s.agenda = .edge w :: rest ∧ w.rst = true ∧ s.enc.phase = .idle) :=
  ⟨⟨_, _, _, rfl, rfl, rfl, by decide⟩, ⟨_, _, _, rfl, rfl, rfl, rfl⟩⟩

theorem witness_QuietStepChangesNothing :
    State.reset.agenda = [] ∧
    (∃ t, (State.asked State.reset [.callerRead .decRes]).over = true ∧ step (State.asked State.reset [.callerRead .decRes]) = .next t) ∧
    (∃ (s : State) (w : Edge) (rest : List Request), s = State.asked State.reset [.edge { quiet with srcAck := true, snkAck := true }] ∧
      s.agenda = .edge w :: rest ∧ w.rst = false ∧
      (if s.dec.phase = .idle then w.decStart = false else (w.srcAck = false ∨ s.src.answers = [])) ∧
      (if s.enc.phase = .idle then w.encStart = false else (w.snkAck = false ∨ s.snk.answers = []))) ∧
    (∃ (s : State) (w : Edge) (rest : List Request),
      s = State.asked { withD Dec.started with enc := encAt .hdr0 false 0#64 none } [.edge { quiet with srcAck := true, decStart := true }] ∧
      s.agenda = .edge w :: rest ∧ w.rst = false ∧
      (if s.dec.phase = .idle then w.decStart = false else (w.srcAck = false ∨ s.src.answers = [])) ∧
      (if s.enc.phase = .idle then w.encStart = false else (w.snkAck = false ∨ s.snk.answers = []))) := by
  refine ⟨rfl, ⟨_, by decide, rfl⟩, ⟨_, _, _, rfl, rfl, rfl, by decide, by decide⟩, ⟨_, _, _, rfl, rfl, rfl, ?_, ?_⟩⟩
  · rw [if_neg (by decide)]; exact .inr rfl
  · rw [if_neg (by decide)]; exact .inl rfl

theorem witness_StepRunsIssuedWord :
    (∃ s t word rest i more, s = State.asked State.reset [.issue (.hdr .dec) [0x81#8, 0x05#8]] ∧ s.agenda = .issue t word :: rest ∧
      decodeIn t word = .ok (i, more) ∧ decodeTableWord 16 0x8105 = some (.opText .dec true 0#3 0x05#8)) ∧
    (∃ s t word rest e, s = State.asked State.reset [.issue .cmdDec [0#8]] ∧ s.agenda = .issue t word :: rest ∧
      decodeIn t word = .error e) ∧
    decodeTableWord 8 4 = some (.decKey 0#8) ∧ decodeTableWord 8 256 = none :=
  ⟨⟨_, _, _, _, _, _, rfl, rfl, rfl, rfl⟩, ⟨_, _, _, _, _, rfl, rfl, rfl⟩, rfl, rfl⟩

/-- 70_reset_and_hazards.md R263: with both units IDLE, a caller's read, an edge without a start and a row that is no start leave
the run over. -/
theorem test_over_without_start :
    (State.asked State.reset [.callerRead .decRes, .callerWrite 0 1#8, .edge { quiet with srcAck := true },
      .issue (.dstep .eos) [5#8]]).over = true := by decide

/-- R263: a start presented on a wire or as a word, or a busy unit, and the run is not over. -/
theorem test_over_not_with_start :
    (State.asked State.reset [.edge { quiet with encStart := true }]).over = false ∧
    (State.asked State.reset [.issue .cmdDec [1#8]]).over = false ∧ (State.asked State.reset [.issue (.dstep .start) [0#8]]).over = false ∧
    (withD Dec.started).over = false := by decide

/-- The hypotheses of the statement on DEC's edges, for a state and an answer. -/
def DecEdgeHyps (s : State) (w : Edge) (a : SrcAnswer) : Prop :=
  s.agenda = [.edge w] ∧ w.rst = false ∧ w.encStart = false ∧ w.snkAck = false ∧ w.srcAck = true ∧ s.src.answers = [a]

/-- Every kind of answer in every phase, and a start. -/
theorem witness_EdgeRunsDecoderStepOfPhase (c : Cause) (ph : DecPhase) (kind : BitVec 2) (v : Byte) :
    ∃ s w, DecEdgeHyps s w ⟨kind, v, c⟩ ∧ s.dec.phase = ph ∧ w.decStart = true :=
  ⟨{ withD { Dec.reset with phase := ph } with
      src := ⟨[⟨kind, v, c⟩], 0⟩, agenda := [.edge { quiet with srcAck := true, decStart := true }] }, _,
    ⟨rfl, rfl, rfl, rfl, rfl, rfl⟩, rfl, rfl⟩

/-- The hypotheses of the statement on ENC's edges, for a state and an answer. -/
def EncEdgeHyps (s : State) (w : Edge) (a : SnkAnswer) : Prop :=
  s.agenda = [.edge w] ∧ w.rst = false ∧ w.decStart = false ∧ w.srcAck = false ∧ w.snkAck = true ∧ s.snk.answers = [a]

/-- Every kind of answer in every phase, and a start. -/
theorem witness_EdgeRunsEncoderStepOfPhase (c : Cause) (ph : EncPhase) (kind : BitVec 2) :
    ∃ s w, EncEdgeHyps s w ⟨kind, c⟩ ∧ s.enc.phase = ph ∧ w.encStart = true :=
  ⟨{ withE { Enc.reset with phase := ph } with
      snk := ⟨[⟨kind, c⟩], [], [], [], []⟩, agenda := [.edge { quiet with snkAck := true, encStart := true }] }, _,
    ⟨rfl, rfl, rfl, rfl, rfl, rfl⟩, rfl, rfl⟩

/-- ENC offers a cell that holds no value: at an edge with no acknowledge, and at one whose answer is Ok. -/
theorem witness_EdgeRunsEncoderStepOfPhase_offer :
    ∃ s : State, s = State.sink (withE { encAt .pay false 5#64 none with idx := some 4#64 }) (oks 1) ∧ s.enc.phase ≠ .idle ∧
      s.encPbuf.read 4 = none ∧ (∃ b, s.snkData = some b) ∧ (∃ t, step (State.asked s [.edge quiet]) = .next t) ∧
      (∃ a as, s.snk.answers = a :: as ∧ a.meaning = .ok) :=
  ⟨_, rfl, by decide, rfl, ⟨_, rfl⟩, ⟨_, rfl⟩, ⟨_, _, rfl, rfl⟩⟩

/-- P6: DEC takes a byte and ENC accepts a start at one edge. -/
theorem witness_UnitsDoNotInterfereAtAnEdge :
    ∃ (s t1 t2 : State) (w : Edge), s = State.gives (withD Dec.started) [0x81#8] ∧ w.rst = false ∧ w.srcAck = true ∧ w.encStart = true ∧
      edgeStep { w with encStart := false, snkAck := false } s = .next t1 ∧
      edgeStep { w with decStart := false, srcAck := false } s = .next t2 ∧ t1.dec ≠ s.dec ∧ t2.enc ≠ s.enc :=
  ⟨_, _, _, { quiet with srcAck := true, encStart := true }, rfl, rfl, rfl, rfl, rfl, rfl, by decide, by decide⟩

theorem witness_DecoderInstructionsLeaveEncoder :
    ∃ i s t, unitOf i = .dec ∧ s = State.gives (mach 9#64) [0x81#8, 0x00#8] ∧ exec i s = .next t ∧ t.dec ≠ s.dec :=
  ⟨.decode, _, _, rfl, rfl, rfl, by decide⟩

theorem witness_EncoderInstructionsLeaveDecoder :
    ∃ i s t, unitOf i = .enc ∧ s = State.sink (mach 9#64) (oks 3) ∧ exec i s = .next t ∧ t.snk.written = [0x89#8, 0x00#8] :=
  ⟨.encode ⟨true, 9#4, false, 0#32, 0#64⟩, _, _, rfl, rfl, rfl, by decide⟩

theorem witness_DecStartClearsEveryRegister : State.reset.dec.phase = .idle ∧ (withD Dec.started).dec.phase ≠ .idle := by decide

theorem witness_DecHdr0TakesFinAndOpcode : (withD Dec.started).dec.phase = .hdr0 := rfl

theorem witness_DecHdr1ChoosesTier :
    (withD (decAt .hdr1 none none none)).dec.phase = .hdr1 ∧ low7 0x7D#8 = 125 ∧ low7 0xFE#8 = 126 ∧ low7 0xFF#8 = 127 := by decide

theorem witness_DecExtShiftsLength :
    ∀ c ∈ [1#4, 2#4, 8#4], ∃ s n m, s = withD (decAt .ext (some true) (some 0#64) (some c)) ∧ s.dec.phase = .ext ∧
      s.dec.len = some n ∧ s.dec.cnt = some c ∧ s.dec.masked = some m := fun _ _ => ⟨_, _, _, rfl, rfl, rfl, rfl, rfl⟩

theorem witness_DecKeyFillsKeyFile :
    ∀ c ∈ [4#4, 3#4, 2#4, 1#4], ∃ s n, s = withD (decAt .key (some true) (some 5#64) (some c)) ∧ s.dec.phase = .key ∧
      s.dec.len = some n ∧ s.dec.cnt = some c := fun _ _ => ⟨_, _, rfl, rfl, rfl, rfl⟩

/-- DEC in PAY at cell `ix` of a frame of 5 bytes. -/
def decPayAt (m : Bool) (ix : Len) : State :=
  withD { decAt .pay (some m) (some 5#64) none with idx := some ix, key := if m then keyV2 else KeyRegs.unset }

/-- First and last byte, masked and not. -/
theorem witness_DecPayStoresUnmaskedByte :
    ∀ m ∈ [true, false], ∀ ix ∈ [0#64, 4#64],
      (decPayAt m ix).dec.phase = .pay ∧ (decPayAt m ix).dec.masked = some m ∧ (decPayAt m ix).dec.len = some 5#64 ∧
      (decPayAt m ix).dec.idx = some ix ∧ ix < 5#64 ∧ 5#64 ≤ (decPayAt m ix).maxPayload ∧
      (m = true → (decPayAt m ix).dec.key.get (ix.toNat % 4) = some 0x37#8) := 
  both (both (by decide) (by decide)) (both (by decide) (by decide))

theorem witness_DecEosRaisesTruncated :
    ∀ ph ∈ [DecPhase.hdr0, .hdr1, .ext, .key, .pay], (withD { Dec.reset with phase := ph }).dec.phase ≠ .idle := by decide

theorem witness_DecFaultRaisesIo :
    ∀ ph ∈ [DecPhase.hdr0, .hdr1, .ext, .key, .pay], (withD { Dec.reset with phase := ph }).dec.phase ≠ .idle := by decide

theorem witness_UnselectedRowsDoNotRun :
    (∀ p ∈ decRows 0x81#8 ⟨true, 0#3, 1#4⟩ true 126#7, State.reset.dec.phase ≠ p.1 ∧
      ∃ s : State, s.dec.phase ≠ .idle ∧ s.dec.phase ≠ p.1) ∧
    (∀ p ∈ encRows ⟨true, 0#3, 1#4⟩ true 126#7, State.reset.enc.phase ≠ p.1 ∧
      ∃ s : State, s.enc.phase ≠ .idle ∧ s.enc.phase ≠ p.1) ∧
    ((withD Dec.started).dec.phase.code ≠ 5#3 ∧ State.reset.dec.phase.code ≠ 1#3) ∧
    ((withE (encAt .hdr0 true 0#64 none)).enc.phase.code ≠ 6#3 ∧ State.reset.enc.phase.code ≠ 1#3) ∧
    (∃ s a k o n, s = withE (encAt .hdr0 true 0#64 none) ∧ s.enc.phase = .hdr0 ∧ s.enc.fin = some a ∧ s.enc.opc = some o ∧
      s.enc.masked = some k ∧ s.enc.len = some n ∧ FirstByte.mk a 1#3 o ≠ ⟨a, 0#3, o⟩ ∧ (1#7 ≠ (lengthField n.toNat).1)) ∧
    (∃ s k n, s = withE (encAt .hdr1 true 0#64 none) ∧ s.enc.phase = .hdr1 ∧ s.enc.masked = some k ∧ s.enc.len = some n ∧
      (1#7 ≠ (lengthField n.toNat).1)) ∧
    ((withD Dec.started).dec.len = none ∧ (decAt .ext none (some 5#64) (some 1#4)).cnt ≠ some 0#4) ∧
    (State.reset.enc.phase ≠ .hdr1 ∧ State.reset.dec.phase ≠ .key ∧ State.reset.enc.phase ≠ .key ∧ State.reset.dec.phase ≠ .pay ∧
      State.reset.enc.phase ≠ .pay) ∧
    (Instr.lenD7 true 126#7).wf = false := by
  refine ⟨?_, ?_, by decide, by decide, ⟨_, _, _, _, _, rfl, rfl, rfl, rfl, rfl, rfl, by decide, by decide⟩,
    ⟨_, _, _, rfl, rfl, rfl, rfl, by decide⟩, by decide, by decide, by decide⟩
  · intro p hp
    refine ⟨by revert p; decide, ?_⟩
    by_cases h : p.1 = .pay
    · exact ⟨withD Dec.started, by decide, by rw [h]; decide⟩
    · exact ⟨withD { Dec.reset with phase := .pay }, by decide, Ne.symm h⟩
  · intro p hp
    refine ⟨by revert p; decide, ?_⟩
    by_cases h : p.1 = .pay
    · exact ⟨withE { Enc.reset with phase := .hdr0 }, by decide, by rw [h]; decide⟩
    · exact ⟨withE { Enc.reset with phase := .pay }, by decide, Ne.symm h⟩

theorem witness_EncStartSamplesFrame :
    ((mach 6#64).enc.phase = .idle ∧ (EncPorts.mk true 9#4 true 0x11223344#32 6#64).len ≤ (mach 6#64).maxPayload) ∧
    (withE (encAt .hdr0 true 0#64 none)).enc.phase ≠ .idle := by decide

theorem witness_EncHdr0WritesFirstByte :
    (encAt .hdr0 true 0#64 none).phase = .hdr0 ∧ (encAt .hdr0 true 0#64 none).fin = some true ∧ (encAt .hdr0 true 0#64 none).opc = some 9#4 := by
  decide

theorem witness_EncHdr1WritesMinimalTier :
    ∀ n ∈ [0#64, 125#64, 126#64, 65535#64, 65536#64], (encAt .hdr1 true n none).phase = .hdr1 ∧
      (encAt .hdr1 true n none).masked = some true ∧ (encAt .hdr1 true n none).len = some n := fun _ _ => ⟨rfl, rfl, rfl⟩

theorem witness_EncExtWritesLengthBytes :
    ∀ c ∈ [1#4, 8#4], ∃ s m n, s = withE (encAt .ext true 65536#64 (some c)) ∧ s.enc.phase = .ext ∧ s.enc.masked = some m ∧
      s.enc.len = some n ∧ s.enc.cnt = some c ∧ 1#4 ≤ c ∧ c ≤ 8#4 := fun c hc =>
  ⟨_, _, _, rfl, rfl, rfl, rfl, rfl, by revert c; decide, by revert c; decide⟩

theorem witness_EncKeyWritesKeyBytes :
    ∀ c ∈ [4#4, 1#4], ∃ s n k, s = withE (encAt .key true 0#64 (some c)) ∧ s.enc.phase = .key ∧ s.enc.len = some n ∧
      s.enc.cnt = some c ∧ 1#4 ≤ c ∧ c ≤ 4#4 ∧ s.enc.key.get (4 - c.toNat) = some k := by
  intro c hc
  simp only [List.mem_cons, List.not_mem_nil, or_false] at hc
  rcases hc with rfl | rfl
  · exact ⟨_, _, _, rfl, rfl, rfl, rfl, by decide, by decide, rfl⟩
  · exact ⟨_, _, _, rfl, rfl, rfl, rfl, by decide, by decide, rfl⟩

/-- ENC in PAY at cell `ix` of a frame of 5 bytes; cell 0 is written, cell 4 is not. -/
def encPayAt (m : Bool) (ix : Len) : State :=
  { withE { encAt .pay m 5#64 none with idx := some ix } with encPbuf := [(0, 0x48#8)] }

theorem witness_EncPayWritesMaskedByte :
    ∀ m ∈ [true, false], ∀ ix ∈ [0#64, 4#64],
      (encPayAt m ix).enc.phase = .pay ∧ (encPayAt m ix).enc.masked = some m ∧ (encPayAt m ix).enc.len = some 5#64 ∧
      (encPayAt m ix).enc.idx = some ix ∧ ix < 5#64 ∧ 5#64 ≤ (encPayAt m ix).maxPayload ∧
      (m = true → (encPayAt m ix).enc.key.get (ix.toNat % 4) = some 0x11#8) := 
  both (both (by decide) (by decide)) (both (by decide) (by decide))

theorem witness_EncFlushCommitsFrame : (withE (encAt .flush true 0#64 none)).enc.phase = .flush := rfl

theorem witness_EncFaultRaisesIo :
    ∀ ph ∈ [EncPhase.hdr0, .hdr1, .ext, .key, .pay, .flush], (withE { Enc.reset with phase := ph }).enc.phase ≠ .idle := by decide

theorem witness_LenD7TakesInlineLength : (withD (decAt .hdr1 none none none)).dec.phase = .hdr1 ∧ (125#7).toNat ≤ 125 := by decide

/-- Answers with which `k` bytes are read, cut off, or not yet given. -/
theorem witness_LenD16TakesTwoBytes :
    (withD (decAt .hdr1 none none none)).dec.phase = .hdr1 ∧
    (∃ bs rest, readBytes 2 [.data 0xFF#8, .data 0xFF#8] = .done bs rest) ∧
    (∃ e rest, readBytes 2 [.data 0#8, .eos] = .failed e rest) ∧ readBytes 2 [.data 0#8] = .waits :=
  ⟨rfl, ⟨_, _, rfl⟩, ⟨_, _, rfl⟩, rfl⟩

theorem witness_LenD64TakesEightBytes (c : Cause) :
    (withD (decAt .hdr1 none none none)).dec.phase = .hdr1 ∧
    (∃ bs rest, readBytes 8 (List.replicate 8 (.data 0xFF#8)) = .done bs rest) ∧
    (∃ e rest, readBytes 8 [.data 0#8, .fault c] = .failed e rest) ∧ readBytes 8 [] = .waits :=
  ⟨rfl, ⟨_, _, rfl⟩, ⟨_, _, rfl⟩, rfl⟩

theorem witness_LenChkComparesWithMaxPayload :
    ∀ n ∈ [5#64, 6#64],
      (∀ ph ∈ [DecPhase.hdr1, .key, .pay], (withD (decAt ph none (some n) none)).dec.len = some n ∧ (decAt ph none (some n) none).phase = ph) ∧
      (withD (decAt .ext none (some n) (some 0#4))).dec.cnt = some 0#4 ∧ (withD (decAt .ext none (some n) (some 0#4))).maxPayload = 5#64 := 
  fun _ _ => ⟨fun _ _ => ⟨rfl, rfl⟩, rfl, rfl⟩

theorem witness_LenTierChoosesMinimalTier :
    ∀ n ∈ [125#64, 126#64, 65535#64, 65536#64], (encAt .hdr1 true n none).phase = .hdr1 ∧ (encAt .hdr1 true n none).len = some n := 
  fun _ _ => ⟨rfl, rfl⟩

theorem witness_LenE7WritesInlineLength :
    ∃ s m n, s = State.sink (withE (encAt .hdr1 true 125#64 none)) (oks 1) ∧ s.enc.phase = .hdr1 ∧ s.enc.masked = some m ∧
      s.enc.len = some n ∧ n.toNat < 126 := ⟨_, _, _, rfl, rfl, rfl, rfl, by decide⟩

theorem witness_LenE16WritesTwoBytes (c : Cause) :
    (∀ n ∈ [126#64, 65535#64], ∃ s m, s = withE (encAt .hdr1 true n none) ∧ s.enc.phase = .hdr1 ∧ s.enc.masked = some m ∧
      s.enc.len = some n ∧ 126 ≤ n.toNat ∧ n.toNat ≤ 65535) ∧
    (∃ acc rest, writeBytes [1#8, 2#8, 3#8] [.ok, .ok, .ok] = .done acc rest) ∧
    (∃ acc rest, writeBytes [1#8, 2#8, 3#8] [.ok, .fault c] = .failed c acc rest) ∧
    (∃ acc, writeBytes [1#8, 2#8, 3#8] [.ok] = .waits acc) :=
  ⟨both ⟨_, _, rfl, rfl, rfl, rfl, by decide, by decide⟩ ⟨_, _, rfl, rfl, rfl, rfl, by decide, by decide⟩, ⟨_, _, rfl⟩, ⟨_, _, rfl⟩, ⟨_, rfl⟩⟩

theorem witness_LenE64WritesEightBytes :
    ∃ s m n, s = withE (encAt .hdr1 true 65536#64 none) ∧ s.enc.phase = .hdr1 ∧ s.enc.masked = some m ∧
      s.enc.len = some n ∧ 65535 < n.toNat := ⟨_, _, _, rfl, rfl, rfl, rfl, by decide⟩

theorem witness_MaskKeyMovesFourBytes :
    (∃ s n, s = withD (decAt .key (some true) (some 5#64) (some 4#4)) ∧ s.dec.phase = .key ∧ s.dec.cnt = some 4#4 ∧
      s.dec.len = some n) ∧
    (∃ s n k, s = withE (encAt .key true 0#64 (some 4#4)) ∧ s.enc.phase = .key ∧ s.enc.cnt = some 4#4 ∧ s.enc.len = some n ∧
      s.enc.key = keyFile k) :=
  ⟨⟨_, _, rfl, rfl, rfl, rfl⟩, ⟨_, _, _, rfl, rfl, rfl, rfl, rfl⟩⟩

theorem witness_MaskXorMasksOneByte :
    ∀ ix ∈ [0#64, 4#64],
      (decPayAt true ix).dec.phase = .pay ∧ (decPayAt true ix).dec.masked = some true ∧ (decPayAt true ix).dec.idx = some ix ∧
      ix < 5#64 ∧ 5#64 ≤ (decPayAt true ix).maxPayload ∧ (decPayAt true ix).dec.key.get (ix.toNat % 4) = some 0x37#8 ∧
      (encPayAt true ix).enc.phase = .pay ∧ (encPayAt true ix).enc.masked = some true ∧ (encPayAt true ix).enc.idx = some ix ∧
      5#64 ≤ (encPayAt true ix).maxPayload ∧ (encPayAt true ix).enc.key.get (ix.toNat % 4) = some 0x11#8 := both (by decide) (by decide)

theorem witness_MaskPassMovesOneByte :
    ∀ ix ∈ [0#64, 4#64],
      (decPayAt false ix).dec.phase = .pay ∧ (decPayAt false ix).dec.masked = some false ∧ (decPayAt false ix).dec.idx = some ix ∧
      ix < 5#64 ∧ 5#64 ≤ (decPayAt false ix).maxPayload ∧
      (encPayAt false ix).enc.phase = .pay ∧ (encPayAt false ix).enc.masked = some false ∧ (encPayAt false ix).enc.idx = some ix ∧
      5#64 ≤ (encPayAt false ix).maxPayload := both (by decide) (by decide)

/-- Lengths that are read, cut off and not yet given, in each tier. -/
theorem witness_HeaderFormsOnDecode :
    (withD Dec.started).dec.phase = .hdr0 ∧ (∃ n rest, readLength 125#7 [] = .done n rest) ∧
    (∃ n rest, readLength 126#7 [.data 0#8, .data 5#8] = .done n rest ∧ ¬ 5 < n) ∧
    (∃ n rest, readLength 126#7 [.data 0#8, .data 6#8] = .done n rest ∧ 5 < n) ∧
    (∃ e rest, readLength 127#7 [.data 0#8, .eos] = .failed e rest) ∧ readLength 127#7 [.data 0#8] = .waits :=
  ⟨rfl, ⟨_, _, rfl⟩, ⟨_, _, rfl, by decide⟩, ⟨_, _, rfl, by decide⟩, ⟨_, _, rfl⟩, rfl⟩

theorem witness_HeaderFormsOnEncode :
    ∀ n ∈ [0#64, 125#64, 126#64, 65535#64, 65536#64], ∀ m ∈ [true, false],
      (encAt .hdr0 m n none).phase = .hdr0 ∧ (encAt .hdr0 m n none).fin = some true ∧ (encAt .hdr0 m n none).opc = some 9#4 ∧
      (encAt .hdr0 m n none).masked = some m ∧ (encAt .hdr0 m n none).len = some n ∧
      (m = true → (encAt .hdr0 m n none).key = keyFile ⟨0x11#8, 0x22#8, 0x33#8, 0x44#8⟩) := fun _ _ _ _ =>
  ⟨rfl, rfl, rfl, rfl, rfl, fun h => by subst h; rfl⟩

theorem witness_OpcodeRowsOnDecode : (withD Dec.started).dec.phase = .hdr0 := rfl

/-- Both bytes accepted, a fault at b1, and no answer. -/
theorem witness_OpcodeRowsOnEncode (c : Cause) :
    (∀ n ∈ [125#64, 126#64, 65535#64, 65536#64], ∃ s, s = State.sink (withE (encAt .hdr0 true n none)) (oks 2) ∧
      s.enc.phase = .hdr0 ∧ s.enc.fin = some true ∧ s.enc.opc = some 9#4 ∧ s.enc.masked = some true ∧ s.enc.len = some n ∧
      ∃ acc rest, writeBytes [0x89#8, 0xFE#8] (s.snk.answers.map SnkAnswer.meaning) = .done acc rest) ∧
    writeBytes [0x89#8, 0xFE#8] [.ok, .fault c] = .failed c [0x89#8] [] ∧ writeBytes [0x89#8, 0xFE#8] [] = .waits [] :=
  ⟨fun _ _ => ⟨_, rfl, rfl, rfl, rfl, rfl, rfl, _, _, rfl⟩, rfl, rfl⟩

/-- A row, a DECODE of a header that waits for its payload, and an ENCODE that waits after its first byte. -/
theorem witness_OpcodeIsNeverInterpreted :
    (∃ s t, s = withD Dec.started ∧ s.dec.phase = .hdr0 ∧ exec (opcodeRow 9#4 .dec true 0#3 0x05#8) s = .next t ∧
      t.dec.opc = some 9#4) ∧
    (∃ s t v c as, s = State.gives (mach 9#64) [0x81#8, 0x05#8] ∧ s.dec.phase = .idle ∧ s.src.answers = ⟨0#2, v, c⟩ :: as ∧
      exec .decode s = .next t ∧ t.dec.opc = some 1#4) ∧
    (∃ s t p, s = State.sink (mach 9#64) (oks 1) ∧ s.enc.phase = .idle ∧ s.snk.tentative = [] ∧
      exec (.encode p) s = .next t ∧ t.snk.accepted = [0x89#8]) :=
  ⟨⟨_, _, rfl, rfl, rfl, rfl⟩, ⟨_, _, _, _, _, rfl, rfl, rfl, rfl, rfl⟩,
    ⟨_, _, ⟨true, 9#4, false, 0#32, 0#64⟩, rfl, rfl, rfl, rfl, rfl⟩⟩

theorem witness_ReservedBitsIgnoredAndWrittenZero : (withE (encAt .hdr0 true 0#64 none)).enc.phase = .hdr0 := rfl

/-- An IDLE decoder whose source gives a whole frame, an end, a fault, a length above the buffer, or nothing more. -/
theorem witness_DecodeCommandAgreesWithOperation (c : Cause) :
    State.reset.dec.phase = .idle ∧
    (∃ f rest, opDecode 5#64 [.data 0x81#8, .data 0x01#8, .data 0x41#8] = .done f rest) ∧
    (∃ rest, opDecode 5#64 [.data 0x81#8, .eos] = .failed .truncated rest) ∧
    (∃ rest, opDecode 5#64 [.fault c] = .failed (.io c) rest) ∧
    (∃ rest, opDecode 5#64 [.data 0x81#8, .data 0x06#8] = .failed .lengthOverflow rest) ∧ opDecode 5#64 [.data 0x81#8] = .waits :=
  ⟨rfl, ⟨_, _, rfl⟩, ⟨_, rfl⟩, ⟨_, rfl⟩, ⟨_, rfl⟩, rfl⟩

/-- An IDLE encoder with a Frame of one byte; the sink accepts all, faults at the flush, or stops answering. -/
theorem witness_EncodeCommandAgreesWithOperation (c : Cause) :
    ∃ s p f, s = { mach 1#64 with encPbuf := [(0, 0xAA#8)] } ∧ p = EncPorts.mk true 15#4 false 0#32 1#64 ∧ s.enc.phase = .idle ∧
      s.snk.tentative = [] ∧ p.len ≤ s.maxPayload ∧ presentedFrame p s.encPbuf = some f ∧
      (∃ acc rest, opEncode f [.ok, .ok, .ok, .ok] = .done acc rest) ∧
      (∃ acc rest, opEncode f [.ok, .ok, .ok, .fault c] = .failed c acc rest) ∧ (∃ acc, opEncode f [.ok] = .waits acc) :=
  ⟨_, _, _, rfl, rfl, rfl, rfl, by decide, rfl, ⟨_, _, rfl⟩, ⟨_, _, rfl⟩, ⟨_, rfl⟩⟩

theorem witness_DecodeOfEncodedFrameGivesItBack :
    ∃ (s : State) (f : Frame) (rest : List SrcAnswer), f = ⟨true, 1#4, true, some ⟨1#8, 2#8, 3#8, 4#8⟩, [0x48#8]⟩ ∧
      s = { mach 1#64 with src := ⟨(encodeBytes f).map SrcAnswer.ofByte ++ rest, 0⟩ } ∧ s.dec.phase = .idle ∧
      f.fits s.maxPayload = true ∧ s.src.answers = (encodeBytes f).map SrcAnswer.ofByte ++ rest ∧ rest.length = 1 :=
  ⟨_, _, [SrcAnswer.ofByte 0x81#8], rfl, rfl, rfl, by decide, rfl, rfl⟩

theorem witness_DecodeEndsWithinBound :
    ∃ s : State, s = State.gives (mach 1#64) (List.replicate 15 0#8) ∧ s.dec.phase = .idle ∧
      14 + s.maxPayload.toNat ≤ s.src.answers.length := ⟨_, rfl, rfl, by decide⟩

theorem witness_StartsWhileBusyAreIgnored :
    ∃ s w, s = State.asked { withD Dec.started with enc := encAt .hdr0 true 0#64 none } [.edge w] ∧
      w = { quiet with decStart := true, encStart := true } ∧ s.dec.phase ≠ .idle ∧ s.enc.phase ≠ .idle ∧ s.agenda = [.edge w] :=
  ⟨_, _, rfl, rfl, by decide, by decide, rfl⟩

theorem witness_EncodeAboveBufferIsRefused :
    (mach 5#64).enc.phase = .idle ∧ (mach 5#64).maxPayload.toNat < (EncPorts.mk true 1#4 false 0#32 6#64).len.toNat := by decide

/-- A decoder that has received the masked Frame of one byte 48. -/
def received : Dec :=
  { decAt .idle (some true) (some 1#64) (some 0#4) with key := keyV2, idx := some 1#64, res := .ok, pbuf := [(0, 0x48#8)] }

theorem received_legal : (withD received).Legal :=
  ⟨⟨rfl, rfl, rfl, 1#64, true, rfl, by decide, rfl, rfl, rfl⟩, ⟨rfl, rfl⟩, rfl, by simp [withD, mach, State.reset, State.withDec]⟩

theorem witness_CallerReadsOnlyValidRegisters :
    (∃ s rest, s = State.asked State.reset [.callerRead .decLen] ∧ s.agenda = .callerRead .decLen :: rest ∧ s.dec.res ≠ .ok ∧ s.Legal) ∧
    (withD received).Legal ∧ (withD received).dec.res = .ok ∧ (withD received).dec.len = some 1#64 ∧ (0#64 < 1#64 ∧ ¬ 1#64 < 1#64) ∧
    (State.reset.dec.res ≠ .io ∧ State.reset.enc.res ≠ .io) ∧
    (∀ c, ∃ s : State, s.Legal ∧ s.dec.res = .io ∧ s.dec.cause = some c ∧ s.enc.res = .io ∧ s.enc.cause = some c) := by
  refine ⟨⟨_, _, rfl, rfl, by decide, rfl, ⟨rfl, rfl⟩, rfl, by simp [State.asked, State.reset]⟩, received_legal, rfl, rfl, by decide,
    by decide, ?_⟩
  intro c
  refine ⟨{ withD { Dec.reset with res := .io, cause := some c } with enc := { Enc.reset with res := .io, cause := some c } },
    ⟨⟨rfl, rfl, rfl, rfl, rfl, rfl, rfl⟩, ⟨rfl, rfl⟩, rfl, ?_⟩, rfl, rfl, rfl, rfl⟩
  simp [withD, mach, State.reset, State.withDec]

/-- Cells 0, 4 and 5 of a buffer of 5 cells while an ENCODE of 4 bytes runs. -/
theorem witness_CallerBufferIsHeldDuringEncode :
    ∃ s : State, s = { mach 5#64 with enc := encAt .hdr0 false 4#64 none } ∧ s.maxPayload.toNat ≤ 5 ∧ s.enc.phase ≠ .idle ∧
      s.enc.len = some 4#64 ∧ 3 < (4#64).toNat ∧ (4#64).toNat ≤ 4 ∧ 4 < s.maxPayload.toNat ∧
      (State.asked s [.callerWrite 4 7#8]).agenda = .callerWrite 4 7#8 :: [] ∧ (mach 5#64).enc.phase = .idle :=
  ⟨_, rfl, by decide, by decide, rfl, by decide, by decide, by decide, rfl, rfl⟩

/-- A legal state in mid-payload, and a step of it that completes the frame. -/
theorem witness_LegalStatesStayLegal :
    ∃ s t : State, s.Legal ∧ step s = .next t ∧ t.dec.res = .ok :=
  ⟨{ State.gives (withD { received with phase := .pay, res := .noResult, idx := some 0#64, pbuf := [] }) [0x7F#8] with
      agenda := [.edge { quiet with srcAck := true }] }, _,
    ⟨⟨rfl, rfl, rfl, rfl, 1#64, true, 0#64, rfl, by decide, rfl, rfl, by decide, rfl, rfl⟩, ⟨rfl, rfl⟩, rfl,
      by simp [withD, mach, State.reset, State.withDec, State.gives]⟩, rfl, rfl⟩

theorem witness_NoStepReadsUnsetRegister :
    ∃ s : State, s.Legal ∧ (∀ a, a < s.maxPayload.toNat → (s.encPbuf.read a).isSome = true) ∧ s.dec.res = .ok ∧ s.encPbuf ≠ [] := by
  refine ⟨{ withD received with maxPayload := 1#64, encPbuf := [(0, 7#8)] }, ⟨?_, ⟨rfl, rfl⟩, rfl, ?_⟩, ?_, rfl, by decide⟩
  · exact ⟨rfl, rfl, rfl, 1#64, true, rfl, by decide, rfl, rfl, rfl⟩
  · decide
  · decide

theorem witness_DecodeEncodeRoundTrip :
    (Instr.hdrS .dec ⟨true, 0#3, 1#4⟩ 125#7).wf = true ∧ decodeIn (.dstep .eos) [5#8, 7#8] = .ok (.decEos 5#3, [7#8]) := ⟨rfl, rfl⟩

theorem witness_WireLengthIsMinimal :
    (Frame.mk true 1#4 true (some ⟨1#8, 2#8, 3#8, 4#8⟩) []).maskKey.isSome = true ∧
    ∀ n ∈ [0, 125, 126], (Frame.mk true 1#4 false none (List.replicate n 0#8)).payload.length < 2 ^ 64 := by
  refine ⟨rfl, fun n hn => ?_⟩
  simp only [List.mem_cons, List.not_mem_nil, or_false] at hn
  rcases hn with rfl | rfl | rfl <;> simp

end Sys2Proof.Tests
end

section
/-! PROOFS. Reset (10_state.md R55, 70_reset_and_hazards.md R240). -/

namespace Sys2Proof.Machine

/-! ### What a step does with the request it takes -/

theorem step_of_agenda_cons {s : State} {r : Request} {rest : List Request} (h : s.agenda = r :: rest) :
    step s = perform r (s.requestTaken rest) := by
  simp only [step, h]

theorem step_of_edge {s : State} {w : Edge} {rest : List Request} (h : s.agenda = .edge w :: rest) :
    step s = edgeStep w (s.requestTaken rest) :=
  step_of_agenda_cons h

theorem edgeStep_of_rst {w : Edge} (hw : w.rst = true) (s : State) : edgeStep w s = .next s.applyReset :=
  if_pos hw

/-- Reset wins over everything else presented at its edge (R240). -/
theorem step_of_reset_edge {s : State} {w : Edge} {rest : List Request} (h : s.agenda = .edge w :: rest)
    (hw : w.rst = true) : step s = .next (s.requestTaken rest).applyReset :=
  (step_of_edge h).trans (edgeStep_of_rst hw _)

/-! ### What a reset leaves of the sink -/

theorem State.applyReset_snk (s : State) :
    s.applyReset.snk = if s.enc.phase = .idle then s.snk else s.snk.abandon := rfl

/-- No answer of the sink is taken at a reset: no transfer happens. -/
@[simp] theorem State.applyReset_snk_answers (s : State) : s.applyReset.snk.answers = s.snk.answers := by
  rw [applyReset_snk]
  split <;> rfl

/-- What the sink has accepted stays accepted at a reset. -/
@[simp] theorem State.applyReset_snk_accepted (s : State) : s.applyReset.snk.accepted = s.snk.accepted := by
  rw [applyReset_snk]
  split <;> rfl

/-! ### The output wires of a unit after reset -/

@[simp] theorem Dec.reset_busyOut : Dec.reset.busyOut = false := rfl
@[simp] theorem Dec.reset_srcReq : Dec.reset.srcReq = false := rfl
@[simp] theorem Enc.reset_busyOut : Enc.reset.busyOut = false := rfl
@[simp] theorem Enc.reset_snkReq : Enc.reset.snkReq = false := rfl

/-- Both ways to a reset state, `State.reset` and an edge with `rst = 1`, leave the two units at their reset values. -/
theorem units_reset_of_reset {t : State} (h : t = State.reset ∨ ∃ (s : State) (w : Edge) (rest : List Request),
      s.agenda = .edge w :: rest ∧ w.rst = true ∧ step s = .next t) :
    t.dec = Dec.reset ∧ t.enc = Enc.reset := by
  obtain rfl | ⟨s, w, rest, hs, hw, ht⟩ := h
  · exact ⟨rfl, rfl⟩
  · obtain rfl : (s.requestTaken rest).applyReset = t := by simpa [step_of_reset_edge hs hw] using ht
    simp

/-- Settles O1: an edge with `rst = 1` answers `State.applyReset`, whatever else is presented. -/
theorem resetStateHoldsNoValues : Obligations.ResetStateHoldsNoValues := by
  unfold Obligations.ResetStateHoldsNoValues
  refine ⟨fun t ht => ?_, fun s w rest hs hw => ⟨_, step_of_reset_edge hs hw, ?_⟩⟩
  · obtain ⟨hdec, henc⟩ := units_reset_of_reset ht
    rw [hdec, henc]
    exact ⟨rfl, rfl, Dec.reset_busyOut, Dec.reset_srcReq, Enc.reset_busyOut, Enc.reset_snkReq⟩
  · simp

end Sys2Proof.Machine
end

section
/-! PROOFS. The wire format: the reserved bits of b0 (30_encoding.md R98), the size and the length tier of an encoded Frame (R107,
40_length.md R131). -/

namespace Sys2Proof

/-! ### The fields of b0 and b1 -/

/-- With bits 6 to 4 cleared, a first byte keeps FIN and the opcode and loses RSV. -/
theorem FirstByte.ofByte_clearRsv (v : Byte) :
    FirstByte.ofByte (v &&& 0x8F#8) = { FirstByte.ofByte v with rsv := 0#3 } := by
  revert v
  decide

theorem secondByte_and_0x7F (m : Bool) (l7 : BitVec 7) : secondByte m l7 &&& 0x7F#8 = l7.setWidth 8 := by
  revert m l7
  decide

namespace Machine

/-! ### RSV1 to RSV3 on decode -/

theorem exec_decHdr0 (v : Byte) (s : State) :
    exec (.decHdr0 v) s = whenDec .hdr0 s (.next (s.withDec (s.dec.takeB0 v))) := rfl

theorem Dec.takeB0_clearRsv (v : Byte) (d : Dec) : d.takeB0 (v &&& 0x8F#8) = d.takeB0 v := by
  simp only [Dec.takeB0, FirstByte.ofByte_clearRsv]

@[simp] theorem Dec.takeB0_phase (v : Byte) (d : Dec) : (d.takeB0 v).phase = .hdr1 := rfl

/-! ### RSV1 to RSV3 on encode -/

theorem exec_encHdr0 (s : State) : exec .encHdr0 s =
    whenEnc .hdr0 s (.next ((s.accept (s.enc.b0 s.offerCount)).withEnc { s.enc with phase := .hdr1 })) := rfl

/-- Whatever FIN and the opcode are, a register without a value included, the first byte offered has RSV clear. -/
theorem Enc.b0_and_0x70 (offer : Nat) (e : Enc) : e.b0 offer &&& 0x70#8 = 0#8 := by
  have rsvClear : ∀ (fin : Bool) (opc : BitVec 4),
      (((BitVec.ofBool fin).setWidth 8 <<< 7) ||| opc.setWidth 8) &&& 0x70#8 = 0#8 := by decide
  exact rsvClear _ _

/-- Settles O43: the byte a decoder takes and the byte an encoder offers meet only FIN and the opcode of b0. -/
theorem reservedBitsIgnoredAndWrittenZero : Obligations.ReservedBitsIgnoredAndWrittenZero := by
  unfold Obligations.ReservedBitsIgnoredAndWrittenZero
  refine ⟨fun s v => ?_, fun s v hs => ?_, fun s hs => ?_⟩
  · rw [exec_decHdr0, exec_decHdr0, Dec.takeB0_clearRsv]
  · exact ⟨_, (exec_decHdr0 v s).trans (whenDec_of_phase _ hs), by simp⟩
  · exact ⟨_, s.enc.b0 s.offerCount, (exec_encHdr0 s).trans (whenEnc_of_phase _ hs), by simp, Enc.b0_and_0x70 _ _⟩

/-! ### The length tier -/

@[simp] theorem beBytes_length (k n : Nat) : (beBytes k n).length = k := by
  simp [beBytes]

theorem lengthField_of_le_125 {n : Nat} (h : n ≤ 125) : lengthField n = (BitVec.ofNat 7 n, []) :=
  if_pos (Nat.lt_succ_of_le h)

theorem lengthField_of_le_65535 {n : Nat} (h : ¬ n ≤ 125) (h' : n ≤ 65535) : lengthField n = (126#7, beBytes 2 n) := by
  rw [lengthField, if_neg (by omega), if_pos h']

theorem lengthField_of_gt_65535 {n : Nat} (h : ¬ n ≤ 65535) : lengthField n = (127#7, beBytes 8 n) := by
  rw [lengthField, if_neg (by omega), if_neg h]

/-- `E(n)` of R131: the number of extended length bytes. -/
theorem lengthField_snd_length (n : Nat) :
    (lengthField n).2.length = if n ≤ 125 then 0 else if n ≤ 65535 then 2 else 8 := by
  split_ifs with h h'
  · simp [lengthField_of_le_125 h]
  · simp [lengthField_of_le_65535 h h']
  · simp [lengthField_of_gt_65535 h']

theorem lengthField_fst_setWidth (n : Nat) :
    (lengthField n).1.setWidth 8 = if n ≤ 125 then BitVec.ofNat 8 n else if n ≤ 65535 then 126#8 else 127#8 := by
  split_ifs with h h'
  · rw [lengthField_of_le_125 h]
    apply BitVec.eq_of_toNat_eq
    simp only [BitVec.toNat_setWidth, BitVec.toNat_ofNat]
    omega
  · rw [lengthField_of_le_65535 h h']
    rfl
  · rw [lengthField_of_gt_65535 h']
    rfl

/-! ### The parts of an encoded Frame -/

@[simp] theorem maskFrom_length (key : Option Key4) (i : Nat) (xs : List Byte) : (maskFrom key i xs).length = xs.length := by
  induction xs generalizing i with
  | nil => rfl
  | cons x xs ih => simp [maskFrom, ih]

theorem Frame.keyBytes_length {f : Frame} (h : f.maskKey.isSome = f.masked) :
    f.keyBytes.length = if f.masked then 4 else 0 := by
  rw [← h, Frame.keyBytes]
  cases f.maskKey <;> rfl

theorem encodeBytes_length (f : Frame) : (encodeBytes f).length =
    2 + (lengthField f.payload.length).2.length + f.keyBytes.length + f.payload.length := by
  simp only [encodeBytes, Frame.header, List.length_append, List.length_cons, List.length_nil, maskFrom_length]

theorem encodeBytes_getElem?_one (f : Frame) : (encodeBytes f)[1]? = some f.b1 := rfl

/-- Settles O60: the wire length adds up the parts of R90, and `lengthField` chooses the minimal tier. -/
theorem wireLengthIsMinimal : Obligations.WireLengthIsMinimal := by
  unfold Obligations.WireLengthIsMinimal
  intro f hkey _
  refine ⟨?_, lengthField_snd_length _, ?_⟩
  · rw [encodeBytes_length, lengthField_snd_length, Frame.keyBytes_length hkey]
  · rw [encodeBytes_getElem?_one, Option.map_some, Frame.b1, secondByte_and_0x7F, lengthField_fst_setWidth]

end Machine
end Sys2Proof
end

section
/-! PROOFS. The length bytes (40_length.md R121 to R129, R132): what is written for a length reads back as that length. -/

namespace Sys2Proof.Machine

/-! ### Big-endian bytes, written and read (R67) -/

/-- The bytes of `n` are those of `n / 256` followed by its lowest byte. -/
theorem beBytes_succ (k n : Nat) : beBytes (k + 1) n = beBytes k (n / 256) ++ [BitVec.ofNat 8 n] := by
  have shift : ∀ j ∈ List.range k, n >>> (8 * (k - j)) = (n / 256) >>> (8 * (k - 1 - j)) := by
    intro j hj
    have hk : 8 * (k - j) = 8 + 8 * (k - 1 - j) := by
      have := List.mem_range.mp hj
      omega
    rw [hk, Nat.shiftRight_add, Nat.shiftRight_eq_div_pow n 8]
  simp only [beBytes, List.range_succ, List.map_append, List.map_cons, List.map_nil, Nat.add_sub_cancel, Nat.sub_self,
    Nat.mul_zero, Nat.shiftRight_zero]
  exact congrArg (· ++ _) (List.map_congr_left fun j hj => congrArg _ (shift j hj))

@[simp] theorem beNat_append_singleton (bs : List Byte) (b : Byte) : beNat (bs ++ [b]) = beNat bs * 256 + b.toNat := by
  simp [beNat]

theorem beNat_beBytes (k n : Nat) : beNat (beBytes k n) = n % 256 ^ k := by
  induction k generalizing n with
  | zero => simp [beBytes, beNat, Nat.mod_one]
  | succ k ih =>
    calc beNat (beBytes (k + 1) n)
        = n / 256 % 256 ^ k * 256 + n % 256 := by rw [beBytes_succ, beNat_append_singleton, ih, BitVec.toNat_ofNat]
      _ = n % 256 ^ (k + 1) := by rw [pow_succ', Nat.mod_mul, Nat.add_comm, Nat.mul_comm]

theorem beNat_beBytes_of_lt {k n : Nat} (h : n < 256 ^ k) : beNat (beBytes k n) = n := by
  rw [beNat_beBytes, Nat.mod_eq_of_lt h]

/-! ### Reading bytes the source has -/

@[simp] theorem readBytes_data (bs : List Byte) (more : List Answer) :
    readBytes bs.length (bs.map Answer.data ++ more) = .done bs more := by
  induction bs with
  | nil => rfl
  | cons b bs ih => simp [readBytes, readByte, Read.andThen, ih]

theorem readBytes_beBytes (k n : Nat) (more : List Answer) :
    readBytes k ((beBytes k n).map Answer.data ++ more) = .done (beBytes k n) more := by
  simpa using readBytes_data (beBytes k n) more

/-! ### One equation per tier (R121 to R123) -/

theorem readLength_of_le_125 {n : Nat} (h : n ≤ 125) (as : List Answer) :
    readLength (BitVec.ofNat 7 n) as = .done n as := by
  have toNat : (BitVec.ofNat 7 n).toNat = n := by
    rw [BitVec.toNat_ofNat]
    omega
  have tier : BitVec.ofNat 7 n ≤ 125#7 := by
    rw [BitVec.le_def, toNat]
    exact h
  rw [readLength, if_pos tier, toNat]

theorem readLength_126 (as : List Answer) :
    readLength 126#7 as = (readBytes 2 as).andThen fun bs as => .done (beNat bs) as := rfl

theorem readLength_127 (as : List Answer) :
    readLength 127#7 as = (readBytes 8 as).andThen fun bs as => .done (beNat bs) as := rfl

/-- R132 for the length: reading back what `lengthField` writes, in each of its three tiers. -/
theorem readLength_lengthField {n : Nat} (h : n < 2 ^ 64) (more : List Answer) :
    readLength (lengthField n).1 ((lengthField n).2.map Answer.data ++ more) = .done n more := by
  by_cases h7 : n ≤ 125
  · rw [lengthField_of_le_125 h7]
    exact readLength_of_le_125 h7 more
  by_cases h16 : n ≤ 65535
  · rw [lengthField_of_le_65535 h7 h16, readLength_126, readBytes_beBytes, Read.andThen,
      beNat_beBytes_of_lt (Nat.lt_succ_of_le h16)]
  · rw [lengthField_of_gt_65535 h16, readLength_127, readBytes_beBytes, Read.andThen, beNat_beBytes_of_lt h]

/-! ### The MASK bit -/

theorem bit7_or_setWidth (m : Bool) (l7 : BitVec 7) : Spec.bit7 m ||| l7.setWidth 8 = secondByte m l7 := by
  revert m l7
  decide

/-- Settles O58: b1 is `secondByte`, whose low seven bits are length7, and each tier reads back what it writes. -/
theorem lengthBytesReadBack : Obligations.LengthBytesReadBack := by
  unfold Obligations.LengthBytesReadBack
  intro n m more
  refine ⟨fun l7 => ?_, readLength_lengthField n.isLt more⟩
  rw [bit7_or_setWidth, secondByte_and_0x7F]

end Sys2Proof.Machine
end

section
/-! PROOFS. The mask (41_mask.md R142, R145): masking a payload twice with one key gives it back. -/

namespace Sys2Proof.Machine

/-- The byte's position selects the same key byte both times, and `x ⊕ a ⊕ a = x`. -/
theorem maskWith_maskWith (key : Option Key4) (i : Nat) (x : Byte) : maskWith key i (maskWith key i x) = x := by
  cases key with
  | none => rfl
  | some k => rw [maskWith, maskWith, BitVec.xor_assoc, BitVec.xor_self, BitVec.xor_zero]

theorem maskFrom_maskFrom (key : Option Key4) (i : Nat) (xs : List Byte) : maskFrom key i (maskFrom key i xs) = xs := by
  induction xs generalizing i with
  | nil => rfl
  | cons x xs ih => rw [maskFrom, maskFrom, maskWith_maskWith, ih]

/-- Settles O59: byte for byte, at whatever position the masking starts. -/
theorem maskingTwiceRestoresPayload : Obligations.MaskingTwiceRestoresPayload := by
  unfold Obligations.MaskingTwiceRestoresPayload
  intro k i p
  exact ⟨maskFrom_maskFrom (some k) i p, maskFrom_length (some k) i p⟩

end Sys2Proof.Machine
end

section
/-! PROOFS. The decoder's steps (42_decode.md R160 to R166, R170, R171): each DSTEP row as a record update in its phase. -/

namespace Sys2Proof.Machine

open Sys2Proof.Spec

/-! ### The fields of b0 and b1, as masks -/

theorem FirstByte.ofByte_fin_eq_topBit (v : Byte) : (FirstByte.ofByte v).fin = topBit v := by
  revert v
  decide

theorem FirstByte.ofByte_opc_eq_and_0x0F (v : Byte) : (FirstByte.ofByte v).opc = (v &&& 0x0F#8).setWidth 4 := by
  revert v
  decide

theorem maskOf_eq_topBit (v : Byte) : maskOf v = topBit v := by
  revert v
  decide

theorem length7Of_toNat_eq_low7 (v : Byte) : (length7Of v).toNat = low7 v := by
  revert v
  decide

theorem length7Of_setWidth_eq_low7 (v : Byte) : (length7Of v).setWidth 64 = BitVec.ofNat 64 (low7 v) := by
  apply BitVec.eq_of_toNat_eq
  rw [BitVec.toNat_setWidth, BitVec.toNat_ofNat, length7Of_toNat_eq_low7]

theorem length7Of_le_125_iff (v : Byte) : length7Of v ≤ 125#7 ↔ low7 v ≤ 125 := by
  rw [BitVec.le_def, length7Of_toNat_eq_low7]
  rfl

theorem length7Of_eq_126_iff (v : Byte) : length7Of v = 126#7 ↔ low7 v = 126 := by
  rw [← BitVec.toNat_inj, length7Of_toNat_eq_low7]
  rfl

/-! ### The header-end procedures and DecFail (R166) -/

theorem Dec.raise_eq_failed (e : FrameError) (d : Dec) :
    d.raise e = failed e.result { d with cause := e.causeAfter d.cause } := rfl

theorem Dec.afterKey_eq_headerEnd (n : Len) (d : Dec) : d.afterKey n = headerEnd n d := rfl

theorem Dec.afterLen_eq_lengthEnd (max n : Len) (m : Bool) (d : Dec) : d.afterLen max n m = lengthEnd max n m d := by
  simp only [Dec.afterLen, lengthEnd, overLong, decide_eq_true_eq]
  rfl

/-! ### DEC.START (R160) -/

theorem exec_decStart_of_idle {s : State} (h : s.dec.phase = .idle) : exec .decStart s = .next (s.withDec Dec.started) :=
  if_pos h

theorem exec_decStart_of_busy {s : State} (h : s.dec.phase ≠ .idle) : exec .decStart s = .next s :=
  if_neg h

/-- Settles O10: an accepted start puts DEC into `Dec.started`, another one is ignored. -/
theorem decStartClearsEveryRegister : Obligations.DecStartClearsEveryRegister := by
  unfold Obligations.DecStartClearsEveryRegister
  exact fun s => ⟨exec_decStart_of_idle, exec_decStart_of_busy⟩

/-! ### DEC.HDR0 (R161) -/

theorem exec_decHdr0_of_phase {s : State} (v : Byte) (h : s.dec.phase = .hdr0) :
    exec (.decHdr0 v) s = .next (s.withDec (s.dec.takeB0 v)) :=
  whenDec_of_phase _ h

/-- Settles O11: the two fields kept of b0 are bit 7 and bits 3 to 0. -/
theorem decHdr0TakesFinAndOpcode : Obligations.DecHdr0TakesFinAndOpcode := by
  unfold Obligations.DecHdr0TakesFinAndOpcode
  intro s v h
  rw [exec_decHdr0_of_phase v h, Dec.takeB0, FirstByte.ofByte_fin_eq_topBit, FirstByte.ofByte_opc_eq_and_0x0F]
  rfl

/-! ### DEC.HDR1 (R162) -/

theorem exec_decHdr1_of_phase {s : State} (v : Byte) (h : s.dec.phase = .hdr1) :
    exec (.decHdr1 v) s = .next (s.withDec (s.dec.takeB1 s.maxPayload v)) :=
  whenDec_of_phase _ h

theorem Dec.takeB1_of_le_125 (max : Len) {v : Byte} (h : length7Of v ≤ 125#7) (d : Dec) :
    d.takeB1 max v = lengthEnd max ((length7Of v).setWidth 64) (maskOf v)
      { d with masked := some (maskOf v), len := some ((length7Of v).setWidth 64) } := by
  rw [Dec.takeB1, if_pos h, Dec.afterLen_eq_lengthEnd]

theorem Dec.takeB1_of_extended (max : Len) {v : Byte} (h : ¬ length7Of v ≤ 125#7) (d : Dec) :
    d.takeB1 max v = { d with
      masked := some (maskOf v), len := some 0#64, cnt := some (if length7Of v = 126#7 then 2#4 else 8#4), phase := .ext } :=
  if_neg h

/-- Settles O12: length7 at most 125 is the length; 126 and 127 choose the number of extended bytes. -/
theorem decHdr1ChoosesTier : Obligations.DecHdr1ChoosesTier := by
  unfold Obligations.DecHdr1ChoosesTier
  intro s v h
  rw [exec_decHdr1_of_phase v h]
  by_cases h7 : low7 v ≤ 125
  · rw [Dec.takeB1_of_le_125 _ ((length7Of_le_125_iff v).mpr h7), maskOf_eq_topBit, length7Of_setWidth_eq_low7, if_pos h7]
    rfl
  · rw [Dec.takeB1_of_extended _ (mt (length7Of_le_125_iff v).mp h7), maskOf_eq_topBit, if_neg h7]
    simp only [length7Of_eq_126_iff]
    split_ifs <;> rfl

/-! ### DEC.EXT (R163) -/

theorem exec_decExt_of_phase {s : State} (v : Byte) (h : s.dec.phase = .ext) :
    exec (.decExt v) s = .next (s.withDec (s.dec.takeExt s.maxPayload s.tick v)) :=
  whenDec_of_phase _ h

theorem sub_one_eq_zero_iff (c : BitVec 4) : c - 1#4 = 0#4 ↔ c = 1#4 := by
  revert c
  decide

/-- The step on registers that hold a value: CNT 1 means the last byte of the length. -/
theorem Dec.takeExt_of_values {d : Dec} {n : Len} {c : BitVec 4} {m : Bool} (hlen : d.len = some n) (hcnt : d.cnt = some c)
    (hmasked : d.masked = some m) (max : Len) (tick : Nat) (v : Byte) :
    d.takeExt max tick v =
      if c = 1#4 then lengthEnd max (shiftIn n v) m { d with len := some (shiftIn n v), cnt := some 0#4 }
      else { d with len := some (shiftIn n v), cnt := some (c - 1#4) } := by
  simp only [Dec.takeExt, Dec.lenV_of_some hlen, Dec.cntV_of_some hcnt, Dec.maskedV_of_some hmasked,
    Dec.afterLen_eq_lengthEnd, sub_one_eq_zero_iff]
  split_ifs with h
  · subst h
    rfl
  · rfl

/-- Settles O13: the length shifts in the byte and CNT counts down to the end of the length. -/
theorem decExtShiftsLength : Obligations.DecExtShiftsLength := by
  unfold Obligations.DecExtShiftsLength
  intro s v n c m hphase hlen hcnt hmasked
  rw [exec_decExt_of_phase v hphase, Dec.takeExt_of_values hlen hcnt hmasked]
  rfl

/-! ### DEC.KEY (R164) -/

theorem exec_decKey_of_phase {s : State} (v : Byte) (h : s.dec.phase = .key) :
    exec (.decKey v) s = .next (s.withDec (s.dec.takeKey s.tick v)) :=
  whenDec_of_phase _ h

theorem Dec.takeKey_of_more {d : Dec} {c : BitVec 4} (hcnt : d.cnt = some c) (hc : c ≠ 1#4) (tick : Nat) (v : Byte) :
    d.takeKey tick v = { d with key := d.key.set (keyIndex c) v, cnt := some (c - 1#4) } := by
  simp only [Dec.takeKey, Dec.cntV_of_some hcnt, sub_one_eq_zero_iff, if_neg hc]

theorem Dec.takeKey_of_last {d : Dec} {n : Len} (hlen : d.len = some n) (hcnt : d.cnt = some 1#4) (tick : Nat) (v : Byte) :
    d.takeKey tick v = headerEnd n { d with key := { d.key with k3 := some v }, cnt := some 0#4 } := by
  simp only [Dec.takeKey, Dec.cntV_of_some hcnt, Dec.lenV_of_some hlen, Dec.afterKey_eq_headerEnd]
  rfl

/-- Settles O14: `4 - CNT` names the key registers in wire order, and the fourth byte ends the header. -/
theorem decKeyFillsKeyFile : Obligations.DecKeyFillsKeyFile := by
  unfold Obligations.DecKeyFillsKeyFile
  intro s v n hphase hlen
  have more {c : BitVec 4} (hcnt : s.dec.cnt = some c) (hc : c ≠ 1#4) : exec (.decKey v) s =
      .next (s.withDec { s.dec with key := s.dec.key.set (keyIndex c) v, cnt := some (c - 1#4) }) := by
    rw [exec_decKey_of_phase v hphase, Dec.takeKey_of_more hcnt hc]
  refine ⟨fun hcnt => more hcnt (by decide), fun hcnt => more hcnt (by decide), fun hcnt => more hcnt (by decide), fun hcnt => ?_⟩
  rw [exec_decKey_of_phase v hphase, Dec.takeKey_of_last hlen hcnt]
  rfl

/-! ### DEC.PAY (R165) -/

theorem exec_decPay_of_phase {s : State} (v : Byte) {ix : Len} (h : s.dec.phase = .pay) (hidx : s.dec.idx = some ix)
    (hix : ix < s.maxPayload) : exec (.decPay v) s = .next (s.withDec (s.dec.takePay s.tick v)) := by
  have cell : s.dec.idxV s.tick < s.maxPayload := by rwa [Dec.idxV_of_some hidx]
  exact (whenDec_of_phase _ h).trans (if_pos cell)

/-- The byte stored is unmasked with `K[IDX mod 4]` exactly when MASKED (R142, R143). -/
theorem Dec.payByte_of_values {d : Dec} {ix : Len} {m : Bool} {k : Byte} (hidx : d.idx = some ix) (hmasked : d.masked = some m)
    (hkey : m = true → d.key.get (ix.toNat % 4) = some k) (tick : Nat) (v : Byte) :
    d.payByte tick v = if m then v ^^^ k else v := by
  simp only [Dec.payByte, maskApply, Dec.maskedV_of_some hmasked, Dec.idxV_of_some hidx, Dec.keyV, maskIndex]
  split_ifs with hm
  · rw [hkey hm, bitsOr_some]
  · rfl

theorem Dec.takePay_of_values {d : Dec} {n ix : Len} (hlen : d.len = some n) (hidx : d.idx = some ix) (tick : Nat) (v : Byte) :
    d.takePay tick v = { d with
      pbuf := d.pbuf.write ix.toNat (d.payByte tick v), idx := some (ix + 1#64),
      res := if ix + 1#64 = n then .ok else d.res,
      phase := if ix + 1#64 = n then .idle else d.phase } := by
  simp only [Dec.takePay, Dec.lenV_of_some hlen, Dec.idxV_of_some hidx]
  split_ifs <;> rfl

/-- Settles O15: the write to cell IDX leaves every other cell, and the last byte completes the frame. -/
theorem decPayStoresUnmaskedByte : Obligations.DecPayStoresUnmaskedByte := by
  unfold Obligations.DecPayStoresUnmaskedByte
  intro s v k n ix m hphase hmasked hlen hidx hix hn hkey
  have hpbuf : (s.dec.takePay s.tick v).pbuf = s.dec.pbuf.write ix.toNat (if m then v ^^^ k else v) := by
    rw [Dec.takePay_of_values hlen hidx, Dec.payByte_of_values hidx hmasked hkey]
  refine ⟨_, exec_decPay_of_phase v hphase hidx (Nat.lt_of_lt_of_le hix hn), ?_, fun b hb => ?_, ?_⟩
  · rw [State.withDec_dec, hpbuf, Memory.read_write_same]
  · rw [State.withDec_dec, hpbuf, Memory.read_write_other _ _ hb]
  · rw [Dec.takePay_of_values hlen hidx, hphase]
    rfl

/-! ### DEC.EOS and DEC.FAULT (R170, R171) -/

theorem DecPhase.code_of_busy {p : DecPhase} (h : p ≠ .idle) : 1#3 ≤ p.code ∧ p.code ≤ 5#3 := by
  cases p
  case idle => exact absurd rfl h
  all_goals decide

theorem decFailIn_code {s : State} (e : FrameError) (h : s.dec.phase ≠ .idle) :
    decFailIn s.dec.phase.code e s = .next (s.raise .dec e) := by
  rw [decFailIn, if_pos (DecPhase.code_of_busy h), if_pos rfl]

/-- Settles O16: the row with the code of PHASE raises `Truncated`. -/
theorem decEosRaisesTruncated : Obligations.DecEosRaisesTruncated := by
  unfold Obligations.DecEosRaisesTruncated
  exact fun s h => decFailIn_code .truncated h

/-- Settles O17: the row with the code of PHASE raises `Io(c)`. -/
theorem decFaultRaisesIo : Obligations.DecFaultRaisesIo := by
  unfold Obligations.DecFaultRaisesIo
  exact fun s c h => decFailIn_code (.io c) h

/-! ### The step on a byte, by phase (30_encoding.md R109) -/

theorem decDataStep_of_hdr0 {s : State} (v : Byte) (h : s.dec.phase = .hdr0) :
    decDataStep v s = .next (s.withDec (s.dec.takeB0 v)) := by
  rw [decDataStep, h]
  exact exec_decHdr0_of_phase v h

theorem decDataStep_of_hdr1 {s : State} (v : Byte) (h : s.dec.phase = .hdr1) :
    decDataStep v s = .next (s.withDec (s.dec.takeB1 s.maxPayload v)) := by
  rw [decDataStep, h]
  exact exec_decHdr1_of_phase v h

theorem decDataStep_of_ext {s : State} (v : Byte) (h : s.dec.phase = .ext) :
    decDataStep v s = .next (s.withDec (s.dec.takeExt s.maxPayload s.tick v)) := by
  rw [decDataStep, h]
  exact exec_decExt_of_phase v h

theorem decDataStep_of_key {s : State} (v : Byte) (h : s.dec.phase = .key) :
    decDataStep v s = .next (s.withDec (s.dec.takeKey s.tick v)) := by
  rw [decDataStep, h]
  exact exec_decKey_of_phase v h

theorem decDataStep_of_pay {s : State} (v : Byte) {ix : Len} (h : s.dec.phase = .pay) (hidx : s.dec.idx = some ix)
    (hix : ix < s.maxPayload) : decDataStep v s = .next (s.withDec (s.dec.takePay s.tick v)) := by
  rw [decDataStep, h]
  exact exec_decPay_of_phase v h hidx hix

end Sys2Proof.Machine
end

section
/-! PROOFS. DECODE agrees with the operation (42_decode.md R168): in every busy phase, DEC's run over the source's answers is what
the rest of the pseudocode reads from them. -/

namespace Sys2Proof.Machine

open Sys2Proof.Spec

/-! ### Reading on -/

@[simp] theorem Read.done_andThen {α β : Type} (a : α) (rest : List Answer) (k : α → List Answer → Read β) :
    (Read.done a rest).andThen k = k a rest := rfl

theorem Read.andThen_assoc {α β γ : Type} (r : Read α) (k : α → List Answer → Read β) (l : β → List Answer → Read γ) :
    (r.andThen k).andThen l = r.andThen fun a as => (k a as).andThen l := by
  cases r <;> rfl

/-- The answers that a reading leaves. -/
def Read.unread {α : Type} : Read α → List Answer
  | .done _ rest => rest
  | .failed _ rest => rest
  | .waits => []

/-- How many answers that are no `Data` a reading has taken: the one its stream error came with. -/
def Read.endings {α : Type} : Read α → Nat
  | .done _ _ => 0
  | .failed e _ => if e = .lengthOverflow then 0 else 1
  | .waits => 0

/-! ### What the steps have to show for a reading -/

/-- DEC's registers at the end of a reading: the Frame, the error, or still busy (R151, R166). -/
def Dec.Shows (d : Dec) : Read Frame → Prop
  | .done f _ => d.phase = .idle ∧ d.res = .ok ∧ d.frame = some f
  | .failed e _ => d.phase = .idle ∧ d.res = e.result ∧ d.cause = e.causeAfter none ∧ d.FrameUnset
  | .waits => d.phase ≠ .idle ∧ d.res = .noResult

/-- Between `s` and `t` the source has made the transfers of a reading, and only DEC and the source have changed (R169). -/
def Transferred (s t : State) (r : Read Frame) : Prop :=
  t.src.answers.map SrcAnswer.meaning = r.unread ∧
    t.src.taken + t.src.answers.length + r.endings = s.src.taken + s.src.answers.length ∧
    t = { s with dec := t.dec, src := t.src }

/-- DEC's run from `s` over all the source's answers ends as the reading `r` of them does. -/
def RunShows (s : State) (r : Read Frame) : Prop :=
  ∃ t, decRun DecPhase.busy s.src.answers s = .next t ∧ t.dec.Shows r ∧ Transferred s t r

/-- From registers `d`, DEC does what is left of the pseudocode, `k`, on whatever the source answers. -/
def Dec.Continues (max : Len) (k : List Answer → Read Frame) (d : Dec) : Prop :=
  ∀ s : State, s.maxPayload = max → s.dec = d → RunShows s (k (s.src.answers.map SrcAnswer.meaning))

/-- A read of the pseudocode comes next: DEC is busy and has no result yet. -/
def Dec.Reading (d : Dec) : Prop := d.phase ≠ .idle ∧ d.res = .noResult ∧ d.cause = none

/-! ### The run, by the answer that comes next -/

theorem decRun_of_idle {s : State} (h : s.dec.phase = .idle) (as : List SrcAnswer) :
    decRun DecPhase.busy as s = .next s := by
  cases as with
  | nil => rfl
  | cons a as => simp [decRun, DecPhase.busy, h]

theorem decRun_cons_of_busy {s : State} (h : s.dec.phase ≠ .idle) (a : SrcAnswer) (as : List SrcAnswer) :
    decRun DecPhase.busy (a :: as) s = andThen (decTransfer a s) (decRun DecPhase.busy as) :=
  if_pos (decide_eq_true h)

/-- A run that is over has made no transfer. -/
theorem RunShows.of_idle {s : State} {r : Read Frame} (hidle : s.dec.phase = .idle) (hr : s.dec.Shows r)
    (hunread : s.src.answers.map SrcAnswer.meaning = r.unread) (hend : r.endings = 0) : RunShows s r :=
  ⟨s, decRun_of_idle hidle _, hr, hunread, by rw [hend, Nat.add_zero], rfl⟩

/-- With no answer left DEC waits. -/
theorem RunShows.of_silent {s : State} (hs : s.dec.Reading) (hsrc : s.src.answers = []) : RunShows s .waits := by
  obtain ⟨hbusy, hres, -⟩ := hs
  exact ⟨s, by rw [hsrc]; rfl, ⟨hbusy, hres⟩, by simp [hsrc, Read.unread], rfl, rfl⟩

/-- A byte is one transfer, then the run goes on. -/
theorem RunShows.of_data {s : State} {a : SrcAnswer} {as : List SrcAnswer} {v : Byte} {d : Dec} {r : Read Frame}
    (hbusy : s.dec.phase ≠ .idle) (hsrc : s.src.answers = a :: as) (ha : a.meaning = .data v)
    (hstep : decDataStep v (s.takeAnswer a) = .next ((s.takeAnswer a).withDec d))
    (h : RunShows ((s.takeAnswer a).withDec d) r) : RunShows s r := by
  obtain ⟨t, hrun, hshows, hunread, hcount, hframe⟩ := h
  refine ⟨t, ?_, hshows, hunread, ?_, hframe⟩
  · rw [hsrc, decRun_cons_of_busy hbusy, decTransfer, ha]
    simpa [hstep, hsrc] using hrun
  · rw [hcount]
    simp only [State.withDec_src, State.takeAnswer, ha, hsrc, List.tail_cons, List.length_cons]
    omega

/-- The end or a fault of the source is one transfer that raises its error. -/
theorem RunShows.of_raise {s : State} {a : SrcAnswer} {as : List SrcAnswer} {e : FrameError} (hs : s.dec.Reading)
    (hsrc : s.src.answers = a :: as) (he : e ≠ .lengthOverflow) (htaken : (s.takeAnswer a).src.taken = s.src.taken)
    (hstep : decTransfer a s = .next ((s.takeAnswer a).raise .dec e)) :
    RunShows s (.failed e (as.map SrcAnswer.meaning)) := by
  obtain ⟨hbusy, -, hcause⟩ := hs
  refine ⟨(s.takeAnswer a).raise .dec e, ?_, ⟨rfl, rfl, ?_, rfl, rfl, rfl, rfl, rfl, rfl⟩, ?_, ?_, rfl⟩
  · rw [hsrc, decRun_cons_of_busy hbusy, hstep, andThen_next, decRun_of_idle rfl]
  · rw [← hcause]
    rfl
  · simp [hsrc, Read.unread]
  · simp only [State.raise_dec_src, State.takeAnswer_answers, htaken, hsrc, Read.endings, if_neg he, List.tail_cons,
      List.length_cons]
    omega

/-- R168, one read at a time: silence, the end and a fault are the same in every phase, so only the step on a byte is left. -/
theorem Dec.Continues.of_readByte {max : Len} {d : Dec} {k : Byte → List Answer → Read Frame} (hd : d.Reading)
    (hbyte : ∀ (v : Byte) (s : State), s.maxPayload = max → s.dec = d →
      ∃ d', decDataStep v s = .next (s.withDec d') ∧ d'.Continues max (k v)) :
    d.Continues max fun as => (readByte as).andThen k := by
  intro s hmax hdec
  have hs : s.dec.Reading := hdec ▸ hd
  have ⟨hbusy, _, _⟩ := hs
  cases hsrc : s.src.answers with
  | nil => exact .of_silent hs hsrc
  | cons a as =>
    cases ha : a.meaning with
    | data v =>
      obtain ⟨d', hstep, hcont⟩ := hbyte v (s.takeAnswer a) hmax hdec
      have hrun := hcont ((s.takeAnswer a).withDec d') hmax rfl
      simp only [State.withDec_src, State.takeAnswer_answers, hsrc, List.tail_cons] at hrun
      simpa [readByte, ha] using RunShows.of_data hbusy hsrc ha hstep hrun
    | eos =>
      simp only [List.map_cons, ha]
      exact .of_raise hs hsrc (by simp) (by simp [State.takeAnswer, ha])
        (by rw [decTransfer, ha]; exact decFailIn_code (s := s.takeAnswer a) _ hbusy)
    | fault c =>
      simp only [List.map_cons, ha]
      exact .of_raise hs hsrc (by simp) (by simp [State.takeAnswer, ha])
        (by rw [decTransfer, ha]; exact decFailIn_code (s := s.takeAnswer a) _ hbusy)

/-! ### The Frame registers -/

/-- The first cells of a buffer hold these bytes. -/
def Memory.Holds (m : Memory) (bs : List Byte) : Prop := ∀ i (h : i < bs.length), m.read i = some bs[i]

theorem Memory.Holds.nil (m : Memory) : m.Holds [] := fun _ h => absurd h (Nat.not_lt_zero _)

theorem Memory.Holds.write {m : Memory} {bs : List Byte} (h : m.Holds bs) (v : Byte) :
    (m.write bs.length v).Holds (bs ++ [v]) := by
  intro i hi
  by_cases hlast : i = bs.length
  · subst hlast
    rw [Memory.read_write_same, List.getElem_concat_length rfl]
  · have hlt : i < bs.length := by
      rw [List.length_append, List.length_singleton] at hi
      omega
    rw [Memory.read_write_other _ _ hlast, h i hlt, List.getElem_append_left hlt]

theorem Memory.Holds.payload {m : Memory} {bs : List Byte} (h : m.Holds bs) : m.payload bs.length = some bs := by
  induction bs using List.reverseRecOn with
  | nil => rfl
  | append_singleton bs b ih =>
    have hinit : m.payload bs.length = some bs := ih fun i hi => by
      rw [h i (by rw [List.length_append]; omega), List.getElem_append_left hi]
    have hlast : m.read bs.length = some b := by
      rw [h bs.length (by simp), List.getElem_concat_length rfl]
    rw [Memory.payload] at hinit
    simp [Memory.payload, List.range_succ, List.mapM_append, hinit, hlast]

/-- The key that MASKED and the key file stand for: the four key bytes, or no key (R141, R143). -/
def KeyRegs.Holds (r : KeyRegs) (masked : Bool) : Option Key4 → Prop
  | some k => masked = true ∧ r = keyFile k
  | none => masked = false

theorem keyFile_get_mod_four (k : Key4) (i : Nat) : (keyFile k).get (i % 4) = some (k.at i) := by
  have hi : i % 4 < 4 := Nat.mod_lt i (by decide)
  unfold Key4.at
  interval_cases i % 4 <;> rfl

theorem KeyRegs.Holds.key4 {r : KeyRegs} {masked : Bool} {key : Option Key4} (h : r.Holds masked key) :
    (if masked then r.key4 else none) = key := by
  cases key with
  | none =>
    obtain rfl : masked = false := h
    rfl
  | some k =>
    obtain ⟨rfl, rfl⟩ := h
    rfl

/-- All through the header, from b0 on, DEC holds FIN and OPC and no result. -/
def Dec.InHeader (d : Dec) (fin : Bool) (opc : BitVec 4) : Prop :=
  d.fin = some fin ∧ d.opc = some opc ∧ d.res = .noResult ∧ d.cause = none

theorem Dec.InHeader.reading {d : Dec} {fin : Bool} {opc : BitVec 4} {ph : DecPhase} (h : d.InHeader fin opc)
    (hphase : d.phase = ph) (hph : ph ≠ .idle) : d.Reading := by
  obtain ⟨-, -, hres, hcause⟩ := h
  exact ⟨hphase ▸ hph, hres, hcause⟩

/-- The fields of a Frame, its payload left out, with the length of the payload. -/
structure Header where
  fin    : Bool
  opc    : BitVec 4
  masked : Bool
  key    : Option Key4
  len    : Len

/-- The Frame of a header and its payload. -/
def Header.frame (h : Header) (payload : List Byte) : Frame := ⟨h.fin, h.opc, h.masked, h.key, payload⟩

/-- DEC's registers hold a complete header. -/
def Dec.HoldsHeader (d : Dec) (h : Header) : Prop :=
  d.fin = some h.fin ∧ d.opc = some h.opc ∧ d.masked = some h.masked ∧ d.key.Holds h.masked h.key ∧ d.len = some h.len

theorem Dec.HoldsHeader.frame {d : Dec} {h : Header} {payload : List Byte} (hd : d.HoldsHeader h)
    (hpbuf : d.pbuf.Holds payload) (hlength : payload.length = h.len.toNat) : d.frame = some (h.frame payload) := by
  obtain ⟨hfin, hopc, hmasked, hkey, hlen⟩ := hd
  simp only [Dec.frame, hfin, hopc, hmasked, hlen, ← hlength, hpbuf.payload, hkey.key4, Header.frame]

theorem Dec.HoldsHeader.payByte {d : Dec} {h : Header} {ix : Len} (hd : d.HoldsHeader h) (hidx : d.idx = some ix) (tick : Nat)
    (v : Byte) : d.payByte tick v = maskWith h.key ix.toNat v := by
  obtain ⟨-, -, hmasked, hkey, -⟩ := hd
  cases hk : h.key with
  | none =>
    have hm : h.masked = false := by rwa [hk] at hkey
    rw [Dec.payByte_of_values (k := 0#8) hidx hmasked (by simp [hm]), hm]
    rfl
  | some k =>
    rw [hk] at hkey
    obtain ⟨hm, hfile⟩ := hkey
    rw [Dec.payByte_of_values hidx hmasked (fun _ => hfile ▸ keyFile_get_mod_four k ix.toNat), hm]
    rfl

/-! ### The payload (R165) -/

/-- Steps 5 to 7 of the pseudocode, with the payload bytes `done` read and `left` to come. -/
def readRest (h : Header) (done : List Byte) (left : Nat) (as : List Answer) : Read Frame :=
  (readPayload h.key done.length left as).andThen fun payload as => .done (h.frame (done ++ payload)) as

theorem readRest_zero (h : Header) (done : List Byte) (as : List Answer) :
    readRest h done 0 as = .done (h.frame done) as := by
  simp [readRest, readPayload]

theorem readRest_succ (h : Header) (done : List Byte) (left : Nat) : readRest h done (left + 1) =
    fun as => (readByte as).andThen fun v => readRest h (done ++ [maskWith h.key done.length v]) left := by
  funext as
  rw [readRest, readPayload, Read.andThen_assoc]
  refine congrArg _ (funext fun v => funext fun rest => ?_)
  simp only [readRest, Read.andThen_assoc, Read.done_andThen, List.length_append, List.length_singleton,
    List.append_assoc, List.singleton_append]

/-- DEC has read the payload bytes `done` of a frame and waits for `left` more, or it has read all and is IDLE with OK. -/
def Dec.AtPayload (d : Dec) (h : Header) (done : List Byte) (left : Nat) : Prop :=
  d.HoldsHeader h ∧ d.pbuf.Holds done ∧ d.idx = some (BitVec.ofNat 64 done.length) ∧ done.length + left = h.len.toNat ∧
    if left = 0 then d.phase = .idle ∧ d.res = .ok else d.phase = .pay ∧ d.res = .noResult ∧ d.cause = none

theorem Dec.Continues.frameComplete {max : Len} {d : Dec} {h : Header} {done : List Byte} (hd : d.AtPayload h done 0) :
    d.Continues max (readRest h done 0) := by
  obtain ⟨hheader, hpbuf, -, hlength, hidle, hres⟩ := hd
  intro s _ hdec
  subst hdec
  rw [readRest_zero]
  exact .of_idle hidle ⟨hidle, hres, hheader.frame hpbuf hlength⟩ rfl rfl

theorem Dec.AtPayload.takePay {d : Dec} {h : Header} {done : List Byte} {left : Nat} (hd : d.AtPayload h done (left + 1))
    (tick : Nat) (v : Byte) : (d.takePay tick v).AtPayload h (done ++ [maskWith h.key done.length v]) left := by
  obtain ⟨hheader, hpbuf, hidx, hcount, hphase, hres, hcause⟩ := hd
  have ⟨_, _, _, _, hlen⟩ := hheader
  have hix : (BitVec.ofNat 64 done.length).toNat = done.length := by
    rw [BitVec.toNat_ofNat]
    omega
  have hlast : BitVec.ofNat 64 done.length + 1#64 = h.len ↔ left = 0 := by
    rw [← BitVec.toNat_inj, BitVec.toNat_add, hix, BitVec.toNat_ofNat]
    omega
  rw [Dec.takePay_of_values hlen hidx, hheader.payByte hidx, hix]
  refine ⟨hheader, hpbuf.write _, ?_, ?_, ?_⟩
  · simp [BitVec.ofNat_add]
  · rw [List.length_append, List.length_singleton]
    omega
  · simp only [hlast]
    split_ifs
    · exact ⟨rfl, rfl⟩
    · exact ⟨hphase, hres, hcause⟩

/-- Phase PAY reads the rest of the payload, down to the last byte, which completes the frame. -/
theorem Dec.Continues.payload {max : Len} {h : Header} (hmax : h.len ≤ max) {left : Nat} {d : Dec} {done : List Byte}
    (hd : d.AtPayload h done left) : d.Continues max (readRest h done left) := by
  induction left generalizing d done with
  | zero => exact .frameComplete hd
  | succ left ih =>
    have hstep := hd.takePay
    obtain ⟨-, -, hidx, hcount, hphase, hres, hcause⟩ := hd
    have hix : BitVec.ofNat 64 done.length < max := by
      rw [BitVec.le_def] at hmax
      rw [BitVec.lt_def, BitVec.toNat_ofNat]
      omega
    rw [readRest_succ]
    refine .of_readByte ⟨by simp [hphase], hres, hcause⟩ fun v s hs hdec => ?_
    subst hs hdec
    exact ⟨_, decDataStep_of_pay v hphase hidx hix, ih (hstep s.tick v)⟩

/-! ### LEN as a big-endian number (R67, R125) -/

theorem beNat_lt (bs : List Byte) : beNat bs < 256 ^ bs.length := by
  induction bs using List.reverseRecOn with
  | nil => simp [beNat]
  | append_singleton bs b ih =>
    rw [beNat_append_singleton, List.length_append, List.length_singleton, pow_succ]
    have := b.isLt
    omega

/-- Shifting a byte into LEN is appending it to the bytes of a big-endian number, modulo 2^64 (R67, R125). -/
theorem shiftIn_beNat (bs : List Byte) (v : Byte) :
    shiftIn (BitVec.ofNat 64 (beNat bs)) v = BitVec.ofNat 64 (beNat (bs ++ [v])) := by
  have disjoint : BitVec.ofNat 64 (beNat bs) <<< 8 &&& v.setWidth 64 = 0#64 := by
    ext i hi
    by_cases h8 : i < 8
    · simp [h8]
    · simp [BitVec.getLsbD_of_ge v i (by omega)]
  rw [shiftIn, ← BitVec.add_eq_or_of_and_eq_zero _ _ disjoint, beNat_append_singleton]
  apply BitVec.eq_of_toNat_eq
  simp only [BitVec.toNat_add, BitVec.toNat_shiftLeft, BitVec.toNat_ofNat, BitVec.toNat_setWidth, Nat.shiftLeft_eq]
  omega

/-! ### The key (R164) -/

section HeaderTail

variable {max n : Len} {d : Dec} {fin : Bool} {opc : BitVec 4} {masked : Bool}

theorem Dec.Continues.of_headerEnd {key : Option Key4} (hmax : n ≤ max)
    (hd : d.InHeader fin opc) (hmasked : d.masked = some masked) (hkey : d.key.Holds masked key)
    (hlen : d.len = some n) : (headerEnd n d).Continues max (readRest ⟨fin, opc, masked, key, n⟩ [] n.toNat) := by
  obtain ⟨hfin, hopc, hres, hcause⟩ := hd
  have hzero : n.toNat = 0 ↔ n = 0#64 := (BitVec.toNat_inj (y := 0#64))
  refine .payload hmax ?_
  unfold headerEnd
  split_ifs with h
  · exact ⟨⟨hfin, hopc, hmasked, hkey, hlen⟩, .nil _, rfl, by simp, by simp [h]⟩
  · exact ⟨⟨hfin, hopc, hmasked, hkey, hlen⟩, .nil _, rfl, by simp, by simp [hzero, h, hres, hcause]⟩

/-- A key byte that is not the last one. -/
theorem Dec.Continues.keyByte {c : BitVec 4} {k : Byte → List Answer → Read Frame} (hd : d.InHeader fin opc)
    (hphase : d.phase = .key) (hcnt : d.cnt = some c) (hc : c ≠ 1#4)
    (h : ∀ v, Dec.Continues max (k v) { d with key := d.key.set (keyIndex c) v, cnt := some (c - 1#4) }) :
    d.Continues max fun as => (readByte as).andThen k := by
  refine .of_readByte (hd.reading hphase (by decide)) fun v s hs hdec => ?_
  subst hdec
  exact ⟨_, decDataStep_of_key v hphase, Dec.takeKey_of_more hcnt hc s.tick v ▸ h v⟩

/-- The fourth key byte completes the header. -/
theorem Dec.Continues.lastKeyByte {key : Byte → Key4} (hmax : n ≤ max) (hd : d.InHeader fin opc)
    (hphase : d.phase = .key) (hmasked : d.masked = some true) (hlen : d.len = some n)
    (hcnt : d.cnt = some 1#4) (hkey : ∀ v, { d.key with k3 := some v } = keyFile (key v)) :
    d.Continues max fun as => (readByte as).andThen fun v => readRest ⟨fin, opc, true, some (key v), n⟩ [] n.toNat := by
  refine .of_readByte (hd.reading hphase (by decide)) fun v s _ hdec => ?_
  subst hdec
  refine ⟨_, decDataStep_of_key v hphase, ?_⟩
  rw [Dec.takeKey_of_last hlen hcnt]
  exact .of_headerEnd hmax hd hmasked ⟨rfl, hkey v⟩ hlen

theorem Dec.Continues.key (hmax : n ≤ max) (hd : d.InHeader fin opc)
    (hphase : d.phase = .key) (hmasked : d.masked = some true) (hlen : d.len = some n) (hcnt : d.cnt = some 4#4) :
    d.Continues max fun as =>
      (readKey true as).andThen fun key => readRest ⟨fin, opc, true, key, n⟩ [] n.toNat := by
  simp only [readKey, if_true, Read.andThen_assoc, Read.done_andThen]
  exact .keyByte hd hphase hcnt (by decide) fun k0 => .keyByte hd hphase rfl (by decide) fun k1 =>
    .keyByte hd hphase rfl (by decide) fun k2 => .lastKeyByte hmax hd hphase hmasked hlen rfl fun k3 => rfl

/-! ### The length (R163, R166) -/

/-- Step 3's check and the steps after it, once the length is read. -/
def readAfterLength (max : Len) (fin : Bool) (opc : BitVec 4) (masked : Bool) (length : Nat) (as : List Answer) : Read Frame :=
  if max.toNat < length then .failed .lengthOverflow as
  else (readKey masked as).andThen fun key => readRest ⟨fin, opc, masked, key, BitVec.ofNat 64 length⟩ [] length

theorem Dec.Continues.overflow (hcause : d.cause = none) :
    (failed .lengthOverflow d).Continues max (.failed .lengthOverflow) := by
  intro s _ hdec
  refine .of_idle (by rw [hdec]; rfl) ?_ rfl rfl
  rw [hdec]
  exact ⟨rfl, rfl, hcause, rfl, rfl, rfl, rfl, rfl, rfl⟩

theorem Dec.Continues.of_lengthEnd {length : Nat} (hd : d.InHeader fin opc)
    (hmasked : d.masked = some masked) (hlen : d.len = some n) (hlength : n.toNat = length) :
    (lengthEnd max n masked d).Continues max (readAfterLength max fin opc masked length) := by
  subst hlength
  unfold lengthEnd readAfterLength
  by_cases hover : max < n
  · simp only [if_pos hover, if_pos (BitVec.lt_def.mp hover)]
    obtain ⟨-, -, -, hcause⟩ := hd
    exact .overflow hcause
  have hmax : n ≤ max := BitVec.not_lt.mp hover
  simp only [if_neg hover, if_neg (mt BitVec.lt_def.mpr hover), BitVec.ofNat_toNat, BitVec.setWidth_eq]
  cases masked with
  | true => exact .key hmax hd rfl hmasked hlen rfl
  | false => exact .of_headerEnd hmax hd hmasked rfl hlen

/-- Step 3, with the extended bytes `done` read and `left` to come, and the steps after it. -/
def readLengthRest (max : Len) (fin : Bool) (opc : BitVec 4) (masked : Bool) (done : List Byte) (left : Nat)
    (as : List Answer) : Read Frame :=
  (readBytes left as).andThen fun bs => readAfterLength max fin opc masked (beNat (done ++ bs))

theorem readLengthRest_zero (max : Len) (fin : Bool) (opc : BitVec 4) (masked : Bool) (done : List Byte) :
    readLengthRest max fin opc masked done 0 = readAfterLength max fin opc masked (beNat done) := by
  funext as
  simp [readLengthRest, readBytes]

theorem readLengthRest_succ (max : Len) (fin : Bool) (opc : BitVec 4) (masked : Bool) (done : List Byte) (left : Nat) :
    readLengthRest max fin opc masked done (left + 1) =
      fun as => (readByte as).andThen fun v => readLengthRest max fin opc masked (done ++ [v]) left := by
  funext as
  rw [readLengthRest, readBytes, Read.andThen_assoc]
  refine congrArg _ (funext fun v => funext fun rest => ?_)
  simp only [readLengthRest, Read.andThen_assoc, Read.done_andThen, List.append_assoc, List.singleton_append]

/-- DEC has read the extended length bytes `done` and waits for `left` more. -/
def Dec.AtExtended (d : Dec) (masked : Bool) (done : List Byte) (left : Nat) : Prop :=
  d.phase = .ext ∧ d.masked = some masked ∧ d.len = some (BitVec.ofNat 64 (beNat done)) ∧
    d.cnt = some (BitVec.ofNat 4 left) ∧ done.length + left ≤ 8

/-- Phase EXT reads the rest of the length, down to the last byte, which ends it. -/
theorem Dec.Continues.extended {left : Nat} {done : List Byte} (hd : d.InHeader fin opc)
    (hext : d.AtExtended masked done (left + 1)) :
    d.Continues max (readLengthRest max fin opc masked done (left + 1)) := by
  induction left generalizing d done with
  | zero =>
    obtain ⟨hphase, hmasked, hlen, hcnt, hcount⟩ := hext
    rw [readLengthRest_succ]
    refine .of_readByte (hd.reading hphase (by decide)) fun v s hs hdec => ?_
    subst hs hdec
    refine ⟨_, decDataStep_of_ext v hphase, ?_⟩
    have hfits : (BitVec.ofNat 64 (beNat (done ++ [v]))).toNat = beNat (done ++ [v]) := by
      have hbytes : (done ++ [v]).length ≤ 8 := by rwa [List.length_append, List.length_singleton]
      rw [BitVec.toNat_ofNat]
      exact Nat.mod_eq_of_lt ((beNat_lt _).trans_le (Nat.pow_le_pow_right (by decide) hbytes))
    rw [Dec.takeExt_of_values hlen hcnt hmasked, if_pos rfl, shiftIn_beNat, readLengthRest_zero]
    refine .of_lengthEnd ?_ ?_ ?_ hfits
    exacts [hd, hmasked, rfl]
  | succ left ih =>
    obtain ⟨hphase, hmasked, hlen, hcnt, hcount⟩ := hext
    have hmore : BitVec.ofNat 4 (left + 1 + 1) ≠ 1#4 := by
      rw [ne_eq, ← BitVec.toNat_inj, BitVec.toNat_ofNat, BitVec.toNat_ofNat]
      omega
    rw [readLengthRest_succ]
    refine .of_readByte (hd.reading hphase (by decide)) fun v s hs hdec => ?_
    subst hs hdec
    refine ⟨_, decDataStep_of_ext v hphase, ?_⟩
    rw [Dec.takeExt_of_values hlen hcnt hmasked, if_neg hmore, shiftIn_beNat]
    refine ih hd ⟨hphase, hmasked, rfl, ?_, ?_⟩
    · rw [BitVec.ofNat_add (left + 1) 1, BitVec.add_sub_cancel]
    · rw [List.length_append, List.length_singleton]
      omega

/-! ### The opening bytes (R161, R162) -/

theorem Dec.Continues.secondByte (hd : d.InHeader fin opc) (hphase : d.phase = .hdr1) :
    d.Continues max fun as => (readByte as).andThen fun b1 as =>
      (readLength (length7Of b1) as).andThen (readAfterLength max fin opc (maskOf b1)) := by
  refine .of_readByte (hd.reading hphase (by decide)) fun b1 s hs hdec => ?_
  subst hs hdec
  refine ⟨_, decDataStep_of_hdr1 b1 hphase, ?_⟩
  by_cases h7 : length7Of b1 ≤ 125#7
  · have hlength : ((length7Of b1).setWidth 64).toNat = (length7Of b1).toNat := by
      rw [BitVec.toNat_setWidth]
      omega
    simp only [readLength, if_pos h7, Read.done_andThen]
    rw [Dec.takeB1_of_le_125 _ h7]
    refine .of_lengthEnd ?_ ?_ ?_ hlength
    exacts [hd, rfl, rfl]
  · simp only [readLength, if_neg h7, Read.andThen_assoc, Read.done_andThen]
    rw [Dec.takeB1_of_extended _ h7]
    split_ifs
    · exact .extended (done := []) (left := 1) hd ⟨rfl, rfl, rfl, rfl, by decide⟩
    · exact .extended (done := []) (left := 7) hd ⟨rfl, rfl, rfl, rfl, by decide⟩

end HeaderTail

/-! ### The whole operation -/

/-- DEC right after the start does what DECODE of R151 does. -/
theorem Dec.started_continues (max : Len) : Dec.started.Continues max (opDecode max) := by
  refine .of_readByte ⟨by decide, rfl, rfl⟩ fun b0 s hs hdec => ?_
  refine ⟨_, decDataStep_of_hdr0 b0 (by rw [hdec]; rfl), ?_⟩
  rw [hdec]
  exact .secondByte ⟨rfl, rfl, rfl, rfl⟩ rfl

/-- An accepted DECODE runs as the operation does on the same answers. -/
theorem exec_decode_shows {s : State} (h : s.dec.phase = .idle) : ∃ t, exec .decode s = .next t ∧
    t.dec.Shows (opDecode s.maxPayload (s.src.answers.map SrcAnswer.meaning)) ∧
    Transferred s t (opDecode s.maxPayload (s.src.answers.map SrcAnswer.meaning)) := by
  obtain ⟨t, hrun, hshows, htransferred⟩ := Dec.started_continues s.maxPayload (s.withDec Dec.started) rfl rfl
  exact ⟨t, (if_pos h).trans hrun, hshows, htransferred⟩

/-- Settles O44: what DEC shows at the end, and the transfers made, for each of the three ways the operation can go. -/
theorem decodeCommandAgreesWithOperation : Obligations.DecodeCommandAgreesWithOperation := by
  unfold Obligations.DecodeCommandAgreesWithOperation
  intro s h
  obtain ⟨t, hexec, hshows, hunread, hcount, hframe⟩ := exec_decode_shows h
  split
  case h_1 f rest hop =>
    rw [hop] at hshows hunread hcount
    obtain ⟨hidle, hres, hf⟩ := hshows
    exact ⟨t, hexec, hidle, hres, hf, hunread, hcount, hframe⟩
  case h_2 e rest hop =>
    rw [hop] at hshows hunread hcount
    obtain ⟨hidle, hres, hcause, hunset⟩ := hshows
    exact ⟨t, hexec, hidle, hres, hcause, hunset, hunread, hcount, hframe⟩
  case h_3 hop =>
    rw [hop] at hshows hunread hcount
    obtain ⟨hbusy, hres⟩ := hshows
    have hsilent : t.src.answers = [] := List.map_eq_nil_iff.mp hunread
    rw [hsilent] at hcount
    exact ⟨t, hexec, hbusy, hres, hsilent, hcount, hframe⟩

end Sys2Proof.Machine
end

section
/-! PROOFS. The encoder's steps (43_encode.md R189 to R196, R201): each ESTEP row as a record update in its phase. -/

namespace Sys2Proof.Machine

open Sys2Proof.Spec

/-! ### The sink after one byte, and the header-end procedures (R195) -/

theorem State.accept_withEnc (s : State) (v : Byte) (e : Enc) :
    (s.accept v).withEnc e = { s with snk := accepting [v] 0 s.snk, enc := e } := rfl

theorem Enc.afterKey_of_len {e : Enc} {n : Len} (hlen : e.len = some n) (offer : Nat) :
    e.afterKey offer = encHeaderEnd n e := by
  rw [Enc.afterKey, Enc.lenV_of_some hlen, encHeaderEnd]

theorem Enc.afterLen_of_values {e : Enc} {n : Len} {m : Bool} (hlen : e.len = some n) (hmasked : e.masked = some m)
    (offer : Nat) : e.afterLen offer = encLengthEnd n m e := by
  rw [Enc.afterLen, Enc.maskedV_of_some hmasked, Enc.afterKey_of_len hlen, encLengthEnd]

theorem ofBool_shiftLeft_eq_bit7 (b : Bool) : (BitVec.ofBool b).setWidth 8 <<< 7 = bit7 b := by
  revert b
  decide

/-! ### ENC.START (R189) -/

theorem encBegin_of_idle {s : State} {p : EncPorts} (h : s.enc.phase = .idle) (hlen : p.len ≤ s.maxPayload) :
    encBegin p s = .next (s.withEnc (Enc.started p)) := by
  rw [encBegin, if_pos h, if_neg (BitVec.not_lt.mpr hlen)]

theorem encBegin_of_busy {s : State} (p : EncPorts) (h : s.enc.phase ≠ .idle) : encBegin p s = .next s :=
  if_neg h

/-- The packing of `enc_key` as shifts: `K[0]` is the most significant byte. -/
theorem KeyRegs.ofPort_eq_shifts (w : BitVec 32) : KeyRegs.ofPort w =
    ⟨some ((w >>> 24).setWidth 8), some ((w >>> 16).setWidth 8), some ((w >>> 8).setWidth 8), some (w.setWidth 8)⟩ := by
  simp only [KeyRegs.ofPort, BitVec.extractLsb', ← BitVec.ofNat_toNat, BitVec.toNat_ushiftRight, Nat.shiftRight_zero]

/-- Settles O19: an accepted start puts ENC into `Enc.started`, another one is ignored. -/
theorem encStartSamplesFrame : Obligations.EncStartSamplesFrame := by
  unfold Obligations.EncStartSamplesFrame
  refine fun s p => ⟨fun h hlen => ?_, encBegin_of_busy p⟩
  calc exec (.encStart p) s = .next (s.withEnc (Enc.started p)) := encBegin_of_idle h hlen
    _ = _ := by rw [Enc.started, KeyRegs.ofPort_eq_shifts]; rfl

/-! ### ENC.HDR0 (R190) -/

theorem exec_encHdr0_of_phase {s : State} (h : s.enc.phase = .hdr0) : exec .encHdr0 s =
    .next ((s.accept (s.enc.b0 s.offerCount)).withEnc { s.enc with phase := .hdr1 }) :=
  whenEnc_of_phase _ h

theorem Enc.b0_of_values {e : Enc} {fin : Bool} {opc : BitVec 4} (hfin : e.fin = some fin) (hopc : e.opc = some opc)
    (offer : Nat) : e.b0 offer = bit7 fin ||| opc.setWidth 8 := by
  rw [Enc.b0, Enc.finV_of_some hfin, Enc.opcV_of_some hopc, ofBool_shiftLeft_eq_bit7]

/-- Settles O20: the byte offered is FIN and the opcode, with RSV clear. -/
theorem encHdr0WritesFirstByte : Obligations.EncHdr0WritesFirstByte := by
  unfold Obligations.EncHdr0WritesFirstByte
  intro s f o hphase hfin hopc
  rw [exec_encHdr0_of_phase hphase, Enc.b0_of_values hfin hopc, State.accept_withEnc]

/-! ### ENC.HDR1 (R191) -/

theorem exec_encHdr1_of_phase {s : State} (h : s.enc.phase = .hdr1) : exec .encHdr1 s =
    .next ((s.accept (s.enc.b1 s.offerCount)).withEnc (s.enc.afterB1 s.offerCount)) :=
  whenEnc_of_phase _ h

/-- The minimal tier (R126), by the length as a number. -/
theorem tierOf_eq (n : Len) :
    tierOf n = if n.toNat ≤ 125 then .seven else if n.toNat ≤ 65535 then .sixteen else .sixtyFour := by
  simp only [tierOf, BitVec.lt_def, BitVec.le_def, BitVec.toNat_ofNat, Nat.reducePow, Nat.reduceMod, Nat.lt_succ_iff]

/-- The step level and the operation level write one length7 field. -/
theorem length7For_eq_lengthField (n : Len) : length7For n = (lengthField n.toNat).1 := by
  rw [length7For, tierOf_eq]
  by_cases h7 : n.toNat ≤ 125
  · rw [if_pos h7, lengthField_of_le_125 h7, BitVec.ofNat_toNat]
  by_cases h16 : n.toNat ≤ 65535
  · rw [if_neg h7, if_pos h16, lengthField_of_le_65535 h7 h16]
  · rw [if_neg h7, if_neg h16, lengthField_of_gt_65535 h16]

theorem Enc.b1_of_values {e : Enc} {m : Bool} {n : Len} (hmasked : e.masked = some m) (hlen : e.len = some n) (offer : Nat) :
    e.b1 offer = bit7 m ||| (lengthField n.toNat).1.setWidth 8 := by
  rw [Enc.b1, Enc.maskedV_of_some hmasked, Enc.lenV_of_some hlen, ofBool_shiftLeft_eq_bit7, length7For_eq_lengthField]

theorem Enc.afterB1_of_values {e : Enc} {m : Bool} {n : Len} (hmasked : e.masked = some m) (hlen : e.len = some n)
    (offer : Nat) : e.afterB1 offer =
      if n.toNat ≤ 125 then encLengthEnd n m e
      else if n.toNat ≤ 65535 then { e with cnt := some 2#4, phase := .ext }
      else { e with cnt := some 8#4, phase := .ext } := by
  rw [Enc.afterB1, Enc.lenV_of_some hlen, tierOf_eq, Enc.afterLen_of_values hlen hmasked]
  split_ifs <;> rfl

/-- Settles O21: in each tier the byte's length7 field and what follows b1. -/
theorem encHdr1WritesMinimalTier : Obligations.EncHdr1WritesMinimalTier := by
  unfold Obligations.EncHdr1WritesMinimalTier
  intro s m n hphase hmasked hlen
  rw [exec_encHdr1_of_phase hphase, Enc.b1_of_values hmasked hlen, Enc.afterB1_of_values hmasked hlen,
    lengthField_fst_setWidth, State.accept_withEnc, BitVec.ofNat_toNat]
  simp only [Nat.lt_succ_iff]
  split_ifs <;> rfl

/-! ### ENC.EXT (R192) -/

theorem exec_encExt_of_phase {s : State} (h : s.enc.phase = .ext) : exec .encExt s =
    .next ((s.accept (s.enc.extOffer s.offerCount)).withEnc (s.enc.afterExt s.offerCount)) :=
  whenEnc_of_phase _ h

theorem Enc.extOffer_of_values {e : Enc} {n : Len} {c : BitVec 4} (hlen : e.len = some n) (hcnt : e.cnt = some c)
    (offer : Nat) : e.extOffer offer = BitVec.ofNat 8 (n.toNat >>> (8 * (c.toNat - 1))) := by
  rw [Enc.extOffer, Enc.lenV_of_some hlen, Enc.cntV_of_some hcnt, extByte, ← BitVec.ofNat_toNat, BitVec.toNat_ushiftRight]

/-- CNT 1 means the last byte of the length. -/
theorem Enc.afterExt_of_values {e : Enc} {n : Len} {c : BitVec 4} {m : Bool} (hlen : e.len = some n) (hcnt : e.cnt = some c)
    (hmasked : e.masked = some m) (offer : Nat) : e.afterExt offer =
      if c = 1#4 then encLengthEnd n m { e with cnt := some 0#4 } else { e with cnt := some (c - 1#4) } := by
  simp only [Enc.afterExt, Enc.cntV_of_some hcnt, sub_one_eq_zero_iff]
  split_ifs with h
  · subst h
    exact Enc.afterLen_of_values (e := { e with cnt := some 0#4 }) hlen hmasked offer
  · rfl

theorem shiftRight_mul_eight_eq_div (n k : Nat) : n >>> (8 * k) = n / 256 ^ k := by
  simp only [Nat.shiftRight_eq_div_pow, pow_mul, Nat.reducePow]

/-- Settles O22: the bytes of LEN go out most significant first, and CNT counts down to the end of the length. -/
theorem encExtWritesLengthBytes : Obligations.EncExtWritesLengthBytes := by
  unfold Obligations.EncExtWritesLengthBytes
  intro s m n c hphase hmasked hlen hcnt _ _
  rw [exec_encExt_of_phase hphase, Enc.extOffer_of_values hlen hcnt, shiftRight_mul_eight_eq_div,
    Enc.afterExt_of_values hlen hcnt hmasked, State.accept_withEnc]

/-! ### ENC.KEY (R193) -/

theorem exec_encKey_of_phase {s : State} (h : s.enc.phase = .key) : exec .encKey s =
    .next ((s.accept (s.enc.keyOffer s.offerCount)).withEnc (s.enc.afterKeyByte s.offerCount)) :=
  whenEnc_of_phase _ h

theorem keyIndex_of_le_four {c : BitVec 4} (h : c ≤ 4#4) : keyIndex c = 4 - c.toNat := by
  revert c
  decide

theorem Enc.keyOffer_of_values {e : Enc} {c : BitVec 4} {k : Byte} (hcnt : e.cnt = some c) (hc : c ≤ 4#4)
    (hkey : e.key.get (4 - c.toNat) = some k) (offer : Nat) : e.keyOffer offer = k := by
  rw [Enc.keyOffer, Enc.cntV_of_some hcnt, keyIndex_of_le_four hc, Enc.keyV, hkey, bitsOr_some]

/-- CNT 1 means the last key byte. -/
theorem Enc.afterKeyByte_of_values {e : Enc} {n : Len} {c : BitVec 4} (hlen : e.len = some n) (hcnt : e.cnt = some c)
    (offer : Nat) : e.afterKeyByte offer =
      if c = 1#4 then encHeaderEnd n { e with cnt := some 0#4 } else { e with cnt := some (c - 1#4) } := by
  simp only [Enc.afterKeyByte, Enc.cntV_of_some hcnt, sub_one_eq_zero_iff]
  split_ifs with h
  · subst h
    exact Enc.afterKey_of_len (e := { e with cnt := some 0#4 }) hlen offer
  · rfl

/-- Settles O23: `4 - CNT` names the key registers in wire order, and the fourth byte ends the header. -/
theorem encKeyWritesKeyBytes : Obligations.EncKeyWritesKeyBytes := by
  unfold Obligations.EncKeyWritesKeyBytes
  intro s n c k hphase hlen hcnt _ hc hkey
  rw [exec_encKey_of_phase hphase, Enc.keyOffer_of_values hcnt hc hkey, Enc.afterKeyByte_of_values hlen hcnt,
    State.accept_withEnc]

/-! ### ENC.PAY (R194) -/

theorem exec_encPay_of_phase {s : State} {ix : Len} (h : s.enc.phase = .pay) (hidx : s.enc.idx = some ix)
    (hix : ix < s.maxPayload) : exec .encPay s =
      .next ((s.accept (s.enc.payOffer s.encPbuf s.offerCount)).withEnc (s.enc.afterPay s.offerCount)) := by
  have cell : s.enc.idxV s.offerCount < s.maxPayload := by rwa [Enc.idxV_of_some hidx]
  exact (whenEnc_of_phase _ h).trans (if_pos cell)

theorem encCell_of_read {pbuf : Memory} {i : Nat} {b : Byte} (h : pbuf.read i = some b) (offer : Nat) :
    encCell pbuf i offer = b := by
  rw [encCell, h, bitsOr_some]

/-- The cell's byte is masked with `K[IDX mod 4]` exactly when MASKED (R142, R143). -/
theorem Enc.payOffer_of_values {e : Enc} {ix : Len} {m : Bool} {k : Byte} (hidx : e.idx = some ix) (hmasked : e.masked = some m)
    (hkey : m = true → e.key.get (ix.toNat % 4) = some k) (pbuf : Memory) (offer : Nat) : e.payOffer pbuf offer =
      if m then encCell pbuf ix.toNat offer ^^^ k else encCell pbuf ix.toNat offer := by
  simp only [Enc.payOffer, maskApply, Enc.maskedV_of_some hmasked, Enc.idxV_of_some hidx, Enc.keyV, maskIndex]
  split_ifs with hm
  · rw [hkey hm, bitsOr_some]
  · rfl

theorem Enc.afterPay_of_values {e : Enc} {n ix : Len} (hlen : e.len = some n) (hidx : e.idx = some ix) (offer : Nat) :
    e.afterPay offer = { e with idx := some (ix + 1#64), phase := if ix + 1#64 = n then .flush else .pay } := by
  simp only [Enc.afterPay, Enc.lenV_of_some hlen, Enc.idxV_of_some hidx]

/-- Settles O24: the byte of cell IDX, whatever it shows, goes out masked, and the last one leads to the flush. -/
theorem encPayWritesMaskedByte : Obligations.EncPayWritesMaskedByte := by
  unfold Obligations.EncPayWritesMaskedByte
  intro s k n ix m hphase hmasked hlen hidx hix hn hkey
  refine ⟨encCell s.encPbuf ix.toNat s.offerCount, fun b hb => encCell_of_read hb _, ?_⟩
  rw [exec_encPay_of_phase hphase hidx (Nat.lt_of_lt_of_le hix hn), Enc.payOffer_of_values hidx hmasked hkey,
    Enc.afterPay_of_values hlen hidx, State.accept_withEnc]

/-! ### ENC.FAULT and ENC.FLUSH (R196, R201) -/

theorem EncPhase.code_of_busy {p : EncPhase} (h : p ≠ .idle) : 1#3 ≤ p.code ∧ p.code ≤ 6#3 := by
  cases p
  case idle => exact absurd rfl h
  all_goals decide

theorem execEncFault_code {s : State} (c : Cause) (h : s.enc.phase ≠ .idle) :
    execEncFault s.enc.phase.code c s = .next (s.raise .enc (.io c)) := by
  rw [execEncFault, if_pos (EncPhase.code_of_busy h), if_pos rfl]

/-- Settles O26: the row with the code of PHASE raises `Io(c)`. -/
theorem encFaultRaisesIo : Obligations.EncFaultRaisesIo := by
  unfold Obligations.EncFaultRaisesIo
  exact fun s c h => execEncFault_code c h

theorem exec_encFlush_of_phase {s : State} (h : s.enc.phase = .flush) : exec .encFlush s =
    .next (s.commit.withEnc { s.enc with res := .ok, phase := .idle }) :=
  whenEnc_of_phase _ h

/-- Settles O25: the flush commits the tentative bytes; its fault is the fault of any busy phase. -/
theorem encFlushCommitsFrame : Obligations.EncFlushCommitsFrame := by
  unfold Obligations.EncFlushCommitsFrame
  exact fun s h => ⟨exec_encFlush_of_phase h, fun c => execEncFault_code c (by simp [h])⟩

/-! ### The step at an `Ok` answer, by phase (30_encoding.md R109) -/

theorem encOkStep_of_hdr0 {s : State} (h : s.enc.phase = .hdr0) : encOkStep s =
    .next ((s.accept (s.enc.b0 s.offerCount)).withEnc { s.enc with phase := .hdr1 }) := by
  rw [encOkStep, h]
  exact exec_encHdr0_of_phase h

theorem encOkStep_of_hdr1 {s : State} (h : s.enc.phase = .hdr1) : encOkStep s =
    .next ((s.accept (s.enc.b1 s.offerCount)).withEnc (s.enc.afterB1 s.offerCount)) := by
  rw [encOkStep, h]
  exact exec_encHdr1_of_phase h

theorem encOkStep_of_ext {s : State} (h : s.enc.phase = .ext) : encOkStep s =
    .next ((s.accept (s.enc.extOffer s.offerCount)).withEnc (s.enc.afterExt s.offerCount)) := by
  rw [encOkStep, h]
  exact exec_encExt_of_phase h

theorem encOkStep_of_key {s : State} (h : s.enc.phase = .key) : encOkStep s =
    .next ((s.accept (s.enc.keyOffer s.offerCount)).withEnc (s.enc.afterKeyByte s.offerCount)) := by
  rw [encOkStep, h]
  exact exec_encKey_of_phase h

theorem encOkStep_of_pay {s : State} {ix : Len} (h : s.enc.phase = .pay) (hidx : s.enc.idx = some ix)
    (hix : ix < s.maxPayload) : encOkStep s =
      .next ((s.accept (s.enc.payOffer s.encPbuf s.offerCount)).withEnc (s.enc.afterPay s.offerCount)) := by
  rw [encOkStep, h]
  exact exec_encPay_of_phase h hidx hix

theorem encOkStep_of_flush {s : State} (h : s.enc.phase = .flush) : encOkStep s =
    .next (s.commit.withEnc { s.enc with res := .ok, phase := .idle }) := by
  rw [encOkStep, h]
  exact exec_encFlush_of_phase h

end Sys2Proof.Machine
end

section
/-! PROOFS. ENCODE agrees with the operation (43_encode.md R199): in every busy phase, ENC's run over the sink's answers writes the
bytes of the Frame that are left, then the flush. -/

namespace Sys2Proof.Machine

open Sys2Proof.Spec

/-! ### Writing on -/

/-- The answers that a writing leaves. -/
def Written.unread : Written → List SinkReply
  | .done _ rest => rest
  | .failed _ _ rest => rest
  | .waits _ => []

@[simp] theorem Written.accepting_unread (v : Byte) (w : Written) : (w.accepting v).unread = w.unread := by
  cases w <;> rfl

/-- The flush comes after the last byte, so a byte accepted first changes nothing of it. -/
theorem Written.thenFlush_accepting (v : Byte) (w : Written) : (w.accepting v).thenFlush = w.thenFlush.accepting v := by
  cases w with
  | done acc rest =>
    cases rest with
    | nil => rfl
    | cons r rest => cases r <;> rfl
  | failed c acc rest => rfl
  | waits acc => rfl

/-- A sink that is silent at once has accepted nothing, whether a byte or the flush is offered. -/
theorem writeBytes_silent_thenFlush (bs : List Byte) : (writeBytes bs []).thenFlush = .waits [] := by
  cases bs <;> rfl

/-- Likewise a sink that faults at once. -/
theorem writeBytes_fault_thenFlush (bs : List Byte) (c : Cause) (rest : List SinkReply) :
    (writeBytes bs (.fault c :: rest)).thenFlush = .failed c [] rest := by
  cases bs <;> rfl

theorem writeBytes_cons_ok_thenFlush (v : Byte) (bs : List Byte) (rest : List SinkReply) :
    (writeBytes (v :: bs) (.ok :: rest)).thenFlush = ((writeBytes bs rest).thenFlush).accepting v :=
  Written.thenFlush_accepting v (writeBytes bs rest)

theorem Written.accepting_eq_done {v : Byte} {w : Written} {acc : List Byte} {rest : List SinkReply}
    (h : w.accepting v = .done acc rest) : ∃ acc', w = .done acc' rest ∧ acc = v :: acc' := by
  cases w with
  | done acc' rest' =>
    obtain ⟨rfl, rfl⟩ := Written.done.inj h
    exact ⟨acc', rfl, rfl⟩
  | failed c acc' rest' => cases h
  | waits acc' => cases h

theorem Written.thenFlush_eq_done {w : Written} {acc : List Byte} {rest : List SinkReply}
    (h : w.thenFlush = .done acc rest) : w = .done acc (.ok :: rest) := by
  match w, h with
  | .done _ (.ok :: _), h =>
    obtain ⟨rfl, rfl⟩ := Written.done.inj h
    rfl

/-- A writing that ends well has had every byte accepted. -/
theorem accepted_of_writeBytes_done {bs acc : List Byte} {rs rest : List SinkReply}
    (h : writeBytes bs rs = .done acc rest) : acc = bs := by
  induction bs generalizing rs acc with
  | nil => exact (Written.done.inj h).1.symm
  | cons v bs ih =>
    match rs, h with
    | .ok :: rs, h =>
      obtain ⟨acc', hw, rfl⟩ := Written.accepting_eq_done h
      rw [ih hw]

theorem accepted_of_opEncode_done {f : Frame} {acc : List Byte} {rs rest : List SinkReply}
    (h : opEncode f rs = .done acc rest) : acc = encodeBytes f :=
  accepted_of_writeBytes_done (Written.thenFlush_eq_done h)

/-! ### What the steps have to show for a writing -/

/-- ENC's registers at the end of a writing: OK, the fault, or still busy (R196, R201). -/
def Enc.Shows (e : Enc) : Written → Prop
  | .done _ _ => e.phase = .idle ∧ e.res = .ok ∧ e.cause = none
  | .failed c _ _ => e.phase = .idle ∧ e.res = .io ∧ e.cause = some c
  | .waits _ => e.phase ≠ .idle ∧ e.res = .noResult

theorem Enc.shows_accepting {e : Enc} (v : Byte) {w : Written} : e.Shows (w.accepting v) ↔ e.Shows w := by
  cases w <;> rfl

/-- The sink at the end of a writing, with these answers left: the bytes accepted are written after the flush, lost at a fault, and
tentative as long as ENC waits (R197). -/
def Sink.after (z : Sink) (left : List SnkAnswer) : Written → Sink
  | .done acc _ => { z with
      answers := left, accepted := z.accepted ++ acc, written := z.written ++ (z.tentative ++ acc), tentative := [] }
  | .failed _ acc _ => { z with
      answers := left, accepted := z.accepted ++ acc, tentative := [], abandoned := z.abandoned ++ [z.tentative ++ acc] }
  | .waits acc => { z with answers := left, accepted := z.accepted ++ acc, tentative := z.tentative ++ acc }

theorem State.accept_snk_after (s : State) (v : Byte) (left : List SnkAnswer) (w : Written) :
    (s.accept v).snk.after left w = s.snk.after left (w.accepting v) := by
  cases w <;> simp [Sink.after, Written.accepting]

/-- What is left of the answers is given, so taking one first makes no difference. -/
theorem State.takeReply_snk_after (s : State) (left : List SnkAnswer) (w : Written) :
    s.takeReply.snk.after left w = s.snk.after left w := by
  cases w <;> rfl

/-- `t` is the end of the writing `w` begun in `s`: ENC shows it, the sink has made its transfers, and nothing else has changed. -/
def EndsAs (s t : State) (w : Written) : Prop :=
  t.enc.Shows w ∧ t.snk.answers.map SnkAnswer.meaning = w.unread ∧ t.snk = s.snk.after t.snk.answers w ∧
    t = { s with enc := t.enc, snk := t.snk }

/-- ENC's run from `s` over all the sink's answers ends as the writing `w` over them does. -/
def RunWrites (s : State) (w : Written) : Prop :=
  ∃ t, encRun EncPhase.busy s.snk.answers s = .next t ∧ EndsAs s t w

/-- From registers `e`, with this caller's buffer, ENC writes the bytes `bs` and then flushes, whatever the sink answers. -/
def Enc.Writes (max : Len) (pbuf : Memory) (e : Enc) (bs : List Byte) : Prop :=
  ∀ s : State, s.maxPayload = max → s.encPbuf = pbuf → s.enc = e →
    RunWrites s (writeBytes bs (s.snk.answers.map SnkAnswer.meaning)).thenFlush

/-- ENC offers a byte or the flush: it is busy and has no result yet. -/
def Enc.Offering (e : Enc) : Prop := e.phase ≠ .idle ∧ e.res = .noResult ∧ e.cause = none

/-! ### The run, by the answer that comes next -/

theorem encRun_of_idle {s : State} (h : s.enc.phase = .idle) (as : List SnkAnswer) :
    encRun EncPhase.busy as s = .next s := by
  cases as with
  | nil => rfl
  | cons a as => simp [encRun, EncPhase.busy, h]

theorem encRun_cons_of_busy {s : State} (h : s.enc.phase ≠ .idle) (a : SnkAnswer) (as : List SnkAnswer) :
    encRun EncPhase.busy (a :: as) s = andThen (encTransfer a s) (encRun EncPhase.busy as) :=
  if_pos (decide_eq_true h)

theorem encTransfer_of_ok {a : SnkAnswer} (ha : a.meaning = .ok) (s : State) : encTransfer a s = encOkStep s.takeReply := by
  rw [encTransfer, ha]

theorem encTransfer_of_fault {a : SnkAnswer} {c : Cause} (ha : a.meaning = .fault c) {s : State} (h : s.enc.phase ≠ .idle) :
    encTransfer a s = .next (s.takeReply.raise .enc (.io c)) := by
  rw [encTransfer, ha]
  exact execEncFault_code (s := s.takeReply) c h

/-- With no answer left ENC waits. -/
theorem RunWrites.of_silent {s : State} (hs : s.enc.Offering) (hsnk : s.snk.answers = []) : RunWrites s (.waits []) := by
  obtain ⟨hbusy, hres, -⟩ := hs
  exact ⟨s, by rw [hsnk]; rfl, ⟨hbusy, hres⟩, by simp [hsnk, Written.unread], by simp [Sink.after], rfl⟩

/-- A fault is one transfer that fails the whole ENCODE. -/
theorem RunWrites.of_fault {s : State} {a : SnkAnswer} {as : List SnkAnswer} {c : Cause} (hbusy : s.enc.phase ≠ .idle)
    (hsnk : s.snk.answers = a :: as) (ha : a.meaning = .fault c) :
    RunWrites s (.failed c [] (as.map SnkAnswer.meaning)) := by
  refine ⟨s.takeReply.raise .enc (.io c), ?_, ⟨rfl, rfl, rfl⟩, ?_, ?_, rfl⟩
  · rw [hsnk, encRun_cons_of_busy hbusy, encTransfer_of_fault ha hbusy, andThen_next, encRun_of_idle rfl]
  · simp [Sink.abandon, hsnk, Written.unread]
  · simp [Sink.abandon, Sink.after]

/-- A byte accepted is one transfer, then the run goes on. -/
theorem RunWrites.of_byte {s : State} {a : SnkAnswer} {as : List SnkAnswer} {v : Byte} {e : Enc} {w : Written}
    (hbusy : s.enc.phase ≠ .idle) (hsnk : s.snk.answers = a :: as) (ha : a.meaning = .ok)
    (hstep : encOkStep s.takeReply = .next ((s.takeReply.accept v).withEnc e))
    (h : RunWrites ((s.takeReply.accept v).withEnc e) w) : RunWrites s (w.accepting v) := by
  obtain ⟨t, hrun, hshows, hunread, hsink, hframe⟩ := h
  refine ⟨t, ?_, (Enc.shows_accepting v).mpr hshows, by rw [hunread, Written.accepting_unread], ?_, hframe⟩
  · rw [hsnk, encRun_cons_of_busy hbusy, encTransfer_of_ok ha, hstep]
    simpa [hsnk] using hrun
  · calc t.snk = (s.takeReply.accept v).snk.after t.snk.answers w := hsink
      _ = s.snk.after t.snk.answers (w.accepting v) := by rw [State.accept_snk_after, State.takeReply_snk_after]

/-- The flush confirmed is one transfer that ends the run. -/
theorem RunWrites.of_flush {s : State} {a : SnkAnswer} {as : List SnkAnswer} (hphase : s.enc.phase = .flush)
    (hcause : s.enc.cause = none) (hsnk : s.snk.answers = a :: as) (ha : a.meaning = .ok) :
    RunWrites s (.done [] (as.map SnkAnswer.meaning)) := by
  refine ⟨s.takeReply.commit.withEnc { s.enc with res := .ok, phase := .idle }, ?_, ⟨rfl, rfl, hcause⟩, ?_, ?_, rfl⟩
  · rw [hsnk, encRun_cons_of_busy (by simp [hphase]), encTransfer_of_ok ha,
      encOkStep_of_flush (s := s.takeReply) hphase]
    exact encRun_of_idle rfl as
  · simp [hsnk, Written.unread]
  · simp [Sink.after]

section Writing

variable {max : Len} {pbuf : Memory} {e : Enc}

/-- R199, one offer at a time: silence and a fault are the same in every phase, so only the step at `Ok` is left. -/
theorem Enc.Writes.of_ok {bs : List Byte} (he : e.Offering)
    (hok : ∀ (s : State) (a : SnkAnswer) (as : List SnkAnswer), s.maxPayload = max → s.encPbuf = pbuf → s.enc = e →
      s.snk.answers = a :: as → a.meaning = .ok → RunWrites s (writeBytes bs (.ok :: as.map SnkAnswer.meaning)).thenFlush) :
    e.Writes max pbuf bs := by
  intro s hmax hpbuf henc
  have hs : s.enc.Offering := henc ▸ he
  have ⟨hbusy, _, _⟩ := hs
  cases hsnk : s.snk.answers with
  | nil =>
    rw [List.map_nil, writeBytes_silent_thenFlush]
    exact .of_silent hs hsnk
  | cons a as =>
    rw [List.map_cons]
    cases ha : a.meaning with
    | ok => exact hok s a as hmax hpbuf henc hsnk ha
    | fault c =>
      rw [writeBytes_fault_thenFlush]
      exact .of_fault hbusy hsnk ha

/-- A phase that offers a byte writes that byte, then what the registers after it write. -/
theorem Enc.Writes.of_byte {v : Byte} {bs : List Byte} (he : e.Offering)
    (hbyte : ∀ s : State, s.maxPayload = max → s.encPbuf = pbuf → s.enc = e →
      ∃ e', encOkStep s = .next ((s.accept v).withEnc e') ∧ e'.Writes max pbuf bs) : e.Writes max pbuf (v :: bs) := by
  have ⟨hbusy, _, _⟩ := he
  refine .of_ok he fun s a as hmax hpbuf henc hsnk ha => ?_
  obtain ⟨e', hstep, hwrites⟩ := hbyte s.takeReply hmax hpbuf henc
  have hrun := hwrites ((s.takeReply.accept v).withEnc e') hmax hpbuf rfl
  simp only [State.withEnc_snk, State.accept_snk, State.takeReply_snk, hsnk, List.tail_cons] at hrun
  rw [writeBytes_cons_ok_thenFlush]
  exact .of_byte (henc ▸ hbusy) hsnk ha hstep hrun

/-- Phase FLUSH has no byte left to write. -/
theorem Enc.Writes.flush (he : e.Offering) (hphase : e.phase = .flush) : e.Writes max pbuf [] := by
  have ⟨_, _, hcause⟩ := he
  refine .of_ok he fun s a as _ _ henc hsnk ha => ?_
  subst henc
  exact .of_flush hphase hcause hsnk ha

end Writing

/-! ### The Frame that ENC's registers and the caller's buffer hold -/

/-- From the start to the flush, ENC holds the fields of the Frame, and no result. -/
def Enc.Sends (e : Enc) (f : Frame) : Prop :=
  e.fin = some f.finalFragment ∧ e.opc = some f.opcode ∧ e.masked = some f.masked ∧ e.key.Holds f.masked f.maskKey ∧
    e.len = some (BitVec.ofNat 64 f.payload.length) ∧ e.res = .noResult ∧ e.cause = none

theorem Enc.Sends.offering {e : Enc} {f : Frame} {ph : EncPhase} (h : e.Sends f) (hphase : e.phase = ph) (hph : ph ≠ .idle) :
    e.Offering := by
  obtain ⟨-, -, -, -, -, hres, hcause⟩ := h
  exact ⟨hphase ▸ hph, hres, hcause⟩

theorem Memory.payload_succ_eq_some {m : Memory} {n : Nat} {bs : List Byte} (h : m.payload (n + 1) = some bs) :
    ∃ init b, m.payload n = some init ∧ m.read n = some b ∧ bs = init ++ [b] := by
  simp only [Memory.payload, List.range_succ, List.mapM_append, List.mapM_cons, List.mapM_nil, Option.pure_def,
    Option.bind_eq_bind, Option.bind_eq_some_iff, Option.some.injEq] at h
  obtain ⟨init, hinit, tail, ⟨b, hb, _, rfl, rfl⟩, rfl⟩ := h
  exact ⟨init, b, hinit, hb, rfl⟩

theorem Memory.holds_of_payload {m : Memory} {n : Nat} {bs : List Byte} (h : m.payload n = some bs) :
    bs.length = n ∧ m.Holds bs := by
  induction n generalizing bs with
  | zero =>
    obtain rfl : [] = bs := Option.some.inj h
    exact ⟨rfl, .nil m⟩
  | succ n ih =>
    obtain ⟨init, b, hinit, hb, rfl⟩ := Memory.payload_succ_eq_some h
    obtain ⟨rfl, hcells⟩ := ih hinit
    refine ⟨List.length_append, fun i hi => ?_⟩
    by_cases hlast : i = init.length
    · subst hlast
      rw [hb, List.getElem_concat_length rfl]
    · have hlt : i < init.length := by
        rw [List.length_append, List.length_singleton] at hi
        omega
      rw [hcells i hlt, List.getElem_append_left hlt]

theorem Memory.Holds.read_append {m : Memory} {done rest : List Byte} {x : Byte} (h : m.Holds (done ++ x :: rest)) :
    m.read done.length = some x := by
  rw [h done.length (by simp), List.getElem_append_right (Nat.le_refl _)]
  simp

theorem Enc.Sends.payOffer {e : Enc} {f : Frame} {pbuf : Memory} {ix : Len} {x : Byte} (he : e.Sends f)
    (hidx : e.idx = some ix) (hcell : pbuf.read ix.toNat = some x) (offer : Nat) :
    e.payOffer pbuf offer = maskWith f.maskKey ix.toNat x := by
  obtain ⟨-, -, hmasked, hkey, -⟩ := he
  cases hk : f.maskKey with
  | none =>
    have hm : f.masked = false := by rwa [hk] at hkey
    rw [Enc.payOffer_of_values (k := 0#8) hidx hmasked (by simp [hm]), encCell_of_read hcell, hm]
    rfl
  | some k =>
    rw [hk] at hkey
    obtain ⟨hm, hfile⟩ := hkey
    rw [Enc.payOffer_of_values hidx hmasked (fun _ => hfile ▸ keyFile_get_mod_four k ix.toNat), encCell_of_read hcell, hm]
    rfl

/-- The bytes of a Frame after its length: the key and the payload. -/
def Frame.afterLength (f : Frame) : List Byte := f.keyBytes ++ maskFrom f.maskKey 0 f.payload

theorem encodeBytes_eq (f : Frame) :
    encodeBytes f = f.b0 :: f.b1 :: ((lengthField f.payload.length).2 ++ f.afterLength) := by
  simp [encodeBytes, Frame.header, Frame.afterLength]

theorem Frame.keyBytes_of_none {f : Frame} (h : f.maskKey = none) : f.keyBytes = [] := by
  rw [Frame.keyBytes, h]

theorem Frame.keyBytes_of_some {f : Frame} {k : Key4} (h : f.maskKey = some k) : f.keyBytes = k.bytes := by
  rw [Frame.keyBytes, h]

theorem toNat_ofNat_of_lt {w n : Nat} (h : n < 2 ^ w) : (BitVec.ofNat w n).toNat = n := by
  rw [BitVec.toNat_ofNat, Nat.mod_eq_of_lt h]

/-- The most significant of the bytes of `n` comes first. -/
theorem beBytes_eq_cons (k n : Nat) : beBytes (k + 1) n = BitVec.ofNat 8 (n >>> (8 * k)) :: beBytes k n := by
  simp only [beBytes, List.range_succ_eq_map, List.map_cons, List.map_map, Nat.add_sub_cancel, Nat.sub_zero]
  refine congrArg _ (List.map_congr_left fun j _ => ?_)
  rw [Function.comp_apply, Nat.sub_sub, Nat.add_comm 1 j]

theorem bit7_or_opcode (fin : Bool) (opc : BitVec 4) : bit7 fin ||| opc.setWidth 8 = FirstByte.toByte ⟨fin, 0#3, opc⟩ := by
  revert fin opc
  decide

/-! ### One lemma per phase, from the last one back -/

section Phases

variable {max : Len} {pbuf : Memory} {f : Frame} {e : Enc}

/-- A key byte that is not the last one. -/
theorem Enc.Writes.keyByte {c : BitVec 4} {k : Byte} {bs : List Byte} (he : e.Sends f) (hphase : e.phase = .key)
    (hcnt : e.cnt = some c) (hc : c ≤ 4#4) (hmore : c ≠ 1#4) (hkey : e.key.get (4 - c.toNat) = some k)
    (h : Enc.Writes max pbuf { e with cnt := some (c - 1#4) } bs) : e.Writes max pbuf (k :: bs) := by
  have ⟨_, _, _, _, hlen, _, _⟩ := he
  refine .of_byte (he.offering hphase (by decide)) fun s _ _ henc => ?_
  subst henc
  have hstep := encOkStep_of_key hphase
  rw [Enc.keyOffer_of_values hcnt hc hkey, Enc.afterKeyByte_of_values hlen hcnt, if_neg hmore] at hstep
  exact ⟨_, hstep, h⟩

/-- A byte of the length: CNT names its weight, and the byte of weight 1 ends the length (R192). -/
theorem Enc.Writes.extByte {left : Nat} {bs : List Byte} (hleft : left < 8) (hsize : f.payload.length < 2 ^ 64)
    (he : e.Sends f) (hphase : e.phase = .ext) (hcnt : e.cnt = some (BitVec.ofNat 4 (left + 1)))
    (h : Enc.Writes max pbuf
      (if left = 0 then encLengthEnd (BitVec.ofNat 64 f.payload.length) f.masked { e with cnt := some 0#4 }
       else { e with cnt := some (BitVec.ofNat 4 left) }) bs) :
    e.Writes max pbuf (BitVec.ofNat 8 (f.payload.length >>> (8 * left)) :: bs) := by
  have ⟨_, _, hmasked, _, hlen, _, _⟩ := he
  have hn : (BitVec.ofNat 64 f.payload.length).toNat = f.payload.length := toNat_ofNat_of_lt hsize
  have hc : (BitVec.ofNat 4 (left + 1)).toNat = left + 1 := toNat_ofNat_of_lt (by omega)
  have hlast : BitVec.ofNat 4 (left + 1) = 1#4 ↔ left = 0 := by
    rw [← BitVec.toNat_inj, hc, BitVec.toNat_ofNat]
    omega
  have hnext : BitVec.ofNat 4 (left + 1) - 1#4 = BitVec.ofNat 4 left := by rw [BitVec.ofNat_add, BitVec.add_sub_cancel]
  refine .of_byte (he.offering hphase (by decide)) fun s _ _ henc => ?_
  subst henc
  have hstep := encOkStep_of_ext hphase
  rw [Enc.extOffer_of_values hlen hcnt, Enc.afterExt_of_values hlen hcnt hmasked, hn, hc, hnext, Nat.add_sub_cancel] at hstep
  simp only [hlast] at hstep
  exact ⟨_, hstep, h⟩

variable (hmax : f.payload.length ≤ max.toNat) (hpbuf : pbuf.Holds f.payload)

include hmax hpbuf

/-- Phase PAY writes the rest of the payload, masked; with nothing left it is the flush (R194). -/
theorem Enc.Writes.payload {done left : List Byte} (hsplit : f.payload = done ++ left) (he : e.Sends f)
    (hidx : e.idx = some (BitVec.ofNat 64 done.length)) (hphase : e.phase = if left = [] then .flush else .pay) :
    e.Writes max pbuf (maskFrom f.maskKey done.length left) := by
  induction left generalizing e done with
  | nil => exact .flush (he.offering hphase (by decide)) hphase
  | cons x left ih =>
    rw [if_neg (List.cons_ne_nil _ _)] at hphase
    have hlength : f.payload.length = done.length + (left.length + 1) := by rw [hsplit, List.length_append, List.length_cons]
    have hix : (BitVec.ofNat 64 done.length).toNat = done.length := toNat_ofNat_of_lt (by omega)
    have hcell : pbuf.read (BitVec.ofNat 64 done.length).toNat = some x := by
      rw [hix]
      exact (hsplit ▸ hpbuf).read_append
    have hlast : BitVec.ofNat 64 done.length + 1#64 = BitVec.ofNat 64 f.payload.length ↔ left = [] := by
      rw [← List.length_eq_zero_iff, ← BitVec.toNat_inj, BitVec.toNat_add, hix, BitVec.toNat_ofNat, BitVec.toNat_ofNat]
      omega
    have ⟨_, _, _, _, hlen, _, _⟩ := he
    rw [maskFrom]
    refine .of_byte (he.offering hphase (by decide)) fun s hs hmem henc => ?_
    subst hs hmem henc
    have hstep := encOkStep_of_pay hphase hidx (by rw [BitVec.lt_def, hix]; omega)
    rw [he.payOffer hidx hcell, hix, Enc.afterPay_of_values hlen hidx] at hstep
    refine ⟨_, hstep, ?_⟩
    have hnext : (done ++ [x]).length = done.length + 1 := List.length_append
    rw [← hnext]
    exact ih (by rw [hsplit, List.append_assoc, List.singleton_append]) he (by simp [BitVec.ofNat_add]) (by simp only [hlast])

theorem Enc.Writes.of_headerEnd (he : e.Sends f) :
    (encHeaderEnd (BitVec.ofNat 64 f.payload.length) e).Writes max pbuf (maskFrom f.maskKey 0 f.payload) := by
  have hzero : BitVec.ofNat 64 f.payload.length = 0#64 ↔ f.payload = [] := by
    rw [← List.length_eq_zero_iff, ← BitVec.toNat_inj, BitVec.toNat_ofNat, BitVec.toNat_ofNat]
    omega
  exact .payload (done := []) hmax hpbuf rfl he rfl (by simp only [encHeaderEnd, hzero])

/-- The fourth key byte completes the header. -/
theorem Enc.Writes.lastKeyByte {k : Byte} (he : e.Sends f) (hphase : e.phase = .key) (hcnt : e.cnt = some 1#4)
    (hkey : e.key.k3 = some k) : e.Writes max pbuf (k :: maskFrom f.maskKey 0 f.payload) := by
  have ⟨_, _, _, _, hlen, _, _⟩ := he
  refine .of_byte (he.offering hphase (by decide)) fun s _ _ henc => ?_
  subst henc
  have hstep := encOkStep_of_key hphase
  rw [Enc.keyOffer_of_values hcnt (by decide) hkey, Enc.afterKeyByte_of_values hlen hcnt, if_pos rfl] at hstep
  refine ⟨_, hstep, .of_headerEnd hmax hpbuf ?_⟩
  exact he

/-- EncAfterLen leads to the key of a masked Frame, and to the payload of an unmasked one (R193, R195). -/
theorem Enc.Writes.of_lengthEnd (he : e.Sends f) :
    (encLengthEnd (BitVec.ofNat 64 f.payload.length) f.masked e).Writes max pbuf f.afterLength := by
  have ⟨_, _, _, hkey, _⟩ := he
  cases hk : f.maskKey with
  | none =>
    obtain hm : f.masked = false := by rwa [hk] at hkey
    rw [Frame.afterLength, Frame.keyBytes_of_none hk, hm]
    exact .of_headerEnd hmax hpbuf he
  | some k =>
    rw [hk] at hkey
    obtain ⟨hm, hfile⟩ := hkey
    have key (j : Nat) (b : Byte) (h : (keyFile k).get j = some b) : e.key.get j = some b := hfile ▸ h
    rw [encLengthEnd, if_pos hm, Frame.afterLength, Frame.keyBytes_of_some hk]
    exact .keyByte (c := 4#4) he rfl rfl (by decide) (by decide) (key 0 k.k0 rfl) <|
      .keyByte (c := 3#4) he rfl rfl (by decide) (by decide) (key 1 k.k1 rfl) <|
      .keyByte (c := 2#4) he rfl rfl (by decide) (by decide) (key 2 k.k2 rfl) <|
      .lastKeyByte hmax hpbuf he rfl rfl (key 3 k.k3 rfl)

/-- Phase EXT writes the rest of the length, down to the last byte, which ends it (R192). -/
theorem Enc.Writes.extended {left : Nat} (hleft : left < 8) (he : e.Sends f) (hphase : e.phase = .ext)
    (hcnt : e.cnt = some (BitVec.ofNat 4 (left + 1))) :
    e.Writes max pbuf (beBytes (left + 1) f.payload.length ++ f.afterLength) := by
  have hsize : f.payload.length < 2 ^ 64 := hmax.trans_lt max.isLt
  induction left generalizing e with
  | zero => exact .extByte hleft hsize he hphase hcnt (.of_lengthEnd hmax hpbuf he)
  | succ left ih =>
    rw [beBytes_eq_cons, List.cons_append]
    exact .extByte hleft hsize he hphase hcnt (ih (by omega) he hphase rfl)

/-- Phase HDR1 writes b1, then the length in its tier (R191). -/
theorem Enc.Writes.secondByte (he : e.Sends f) (hphase : e.phase = .hdr1) :
    e.Writes max pbuf (f.b1 :: ((lengthField f.payload.length).2 ++ f.afterLength)) := by
  have hn : (BitVec.ofNat 64 f.payload.length).toNat = f.payload.length := toNat_ofNat_of_lt (hmax.trans_lt max.isLt)
  have ⟨_, _, hmasked, _, hlen, _, _⟩ := he
  refine .of_byte (he.offering hphase (by decide)) fun s _ _ henc => ?_
  subst henc
  have hstep := encOkStep_of_hdr1 hphase
  rw [Enc.b1_of_values hmasked hlen, Enc.afterB1_of_values hmasked hlen, hn, bit7_or_setWidth] at hstep
  refine ⟨_, hstep, ?_⟩
  split_ifs with h7 h16
  · rw [lengthField_of_le_125 h7]
    exact .of_lengthEnd hmax hpbuf he
  · rw [lengthField_of_le_65535 h7 h16]
    exact .extended hmax hpbuf (left := 1) (by decide) he rfl rfl
  · rw [lengthField_of_gt_65535 h16]
    exact .extended hmax hpbuf (left := 7) (by decide) he rfl rfl

theorem Enc.Writes.firstByte (he : e.Sends f) (hphase : e.phase = .hdr0) : e.Writes max pbuf (encodeBytes f) := by
  have ⟨hfin, hopc, _, _, _, _, _⟩ := he
  rw [encodeBytes_eq]
  refine .of_byte (he.offering hphase (by decide)) fun s _ _ henc => ?_
  subst henc
  have hstep := encOkStep_of_hdr0 hphase
  rw [Enc.b0_of_values hfin hopc, bit7_or_opcode] at hstep
  refine ⟨_, hstep, .secondByte hmax hpbuf ?_ rfl⟩
  exact he

end Phases

/-! ### The whole operation -/

/-- An accepted start of the presented Frame: ENC holds its fields, and the caller's buffer its payload (R189). -/
theorem started_sends {p : EncPorts} {pbuf : Memory} {f : Frame} (h : presentedFrame p pbuf = some f) :
    (Enc.started p).Sends f ∧ pbuf.Holds f.payload ∧ f.payload.length = p.len.toNat := by
  unfold presentedFrame at h
  split at h
  case h_1 payload hpayload =>
    obtain rfl := Option.some.inj h
    obtain ⟨hlength, hcells⟩ := Memory.holds_of_payload hpayload
    have hkey : (Enc.started p).key.Holds p.masked (if p.masked then (KeyRegs.ofPort p.key).key4 else none) := by
      unfold Enc.started
      cases p.masked with
      | true => exact ⟨rfl, rfl⟩
      | false => rfl
    have hlen : (Enc.started p).len = some (BitVec.ofNat 64 payload.length) := by
      rw [hlength, BitVec.ofNat_toNat, BitVec.setWidth_eq]
      rfl
    exact ⟨⟨rfl, rfl, rfl, hkey, hlen, rfl, rfl⟩, hcells, hlength⟩
  case h_2 => cases h

/-- An accepted ENCODE runs as the operation does on the same answers. -/
theorem exec_encode_writes {s : State} {p : EncPorts} {f : Frame} (h : s.enc.phase = .idle) (hlen : p.len ≤ s.maxPayload)
    (hf : presentedFrame p s.encPbuf = some f) :
    ∃ t, exec (.encode p) s = .next t ∧ EndsAs s t (opEncode f (s.snk.answers.map SnkAnswer.meaning)) := by
  obtain ⟨hsends, hcells, hlength⟩ := started_sends hf
  have hmax : f.payload.length ≤ s.maxPayload.toNat := hlength ▸ BitVec.le_def.mp hlen
  obtain ⟨t, hrun, hends⟩ := Enc.Writes.firstByte hmax hcells hsends rfl (s.withEnc (Enc.started p)) rfl rfl rfl
  refine ⟨t, ?_, hends⟩
  calc exec (.encode p) s = andThen (encBegin p s) (encRun EncPhase.busy s.snk.answers) := if_pos h
    _ = .next t := by rw [encBegin_of_idle h hlen]; exact hrun

/-- Settles O45: what ENC shows and the sink holds at the end, for each of the three ways the operation can go. -/
theorem encodeCommandAgreesWithOperation : Obligations.EncodeCommandAgreesWithOperation := by
  unfold Obligations.EncodeCommandAgreesWithOperation
  intro s p f hidle htentative hlen hf
  obtain ⟨t, hexec, hshows, hunread, hsink, hframe⟩ := exec_encode_writes hidle hlen hf
  split
  case h_1 acc rest hop =>
    rw [hop] at hshows hunread hsink
    obtain ⟨hphase, hres, hcause⟩ := hshows
    exact ⟨accepted_of_opEncode_done hop, t, hexec, hphase, hres, hcause, hunread,
      hsink.trans (by simp [Sink.after, htentative]), hframe⟩
  case h_2 c acc rest hop =>
    rw [hop] at hshows hunread hsink
    obtain ⟨hphase, hres, hcause⟩ := hshows
    exact ⟨t, hexec, hphase, hres, hcause, hunread, hsink.trans (by simp [Sink.after, htentative]), hframe⟩
  case h_3 acc hop =>
    rw [hop] at hshows hunread hsink
    obtain ⟨hbusy, hres⟩ := hshows
    have hsilent : t.snk.answers = [] := List.map_eq_nil_iff.mp hunread
    exact ⟨t, hexec, hbusy, hres, hsink.trans (by simp [Sink.after, htentative, hsilent]), hframe⟩

end Sys2Proof.Machine
end

section
/-! PROOFS. The round trip (43_encode.md R188): the operation DECODE reads `EncodeBytes(f)` back to `f`, and DEC with it. -/

namespace Sys2Proof.Machine

/-! ### Reading the parts of a Frame on the wire -/

theorem readKey_keyBytes {f : Frame} (h : f.maskKey.isSome = f.masked) (more : List Answer) :
    readKey f.masked (f.keyBytes.map Answer.data ++ more) = .done f.maskKey more := by
  cases hk : f.maskKey with
  | none =>
    rw [Frame.keyBytes_of_none hk, ← h, hk]
    rfl
  | some k =>
    rw [Frame.keyBytes_of_some hk, ← h, hk]
    rfl

/-- Reading unmasks, so a payload that stands masked on the wire is read as it was. -/
theorem readPayload_maskFrom (key : Option Key4) (i : Nat) (xs : List Byte) (more : List Answer) :
    readPayload key i xs.length ((maskFrom key i xs).map Answer.data ++ more) = .done xs more := by
  induction xs generalizing i with
  | nil => rfl
  | cons x xs ih =>
    simp only [List.length_cons, maskFrom, List.map_cons, List.cons_append, readPayload, readByte, Read.done_andThen, ih,
      maskWith_maskWith]

/-- DECODE of the bytes of a Frame that fits gives the Frame, and reads no answer after them. -/
theorem opDecode_encodeBytes {max : Len} {f : Frame} (hkey : f.maskKey.isSome = f.masked)
    (hmax : f.payload.length ≤ max.toNat) (more : List Answer) :
    opDecode max ((encodeBytes f).map Answer.data ++ more) = .done f more := by
  have hsize : f.payload.length < 2 ^ 64 := hmax.trans_lt max.isLt
  simp only [encodeBytes_eq, Frame.afterLength, List.map_cons, List.map_append, List.cons_append, List.append_assoc, opDecode,
    readByte, Read.done_andThen, Frame.b0, Frame.b1, FirstByte.ofByte_toByte, maskOf_secondByte, length7Of_secondByte,
    readLength_lengthField hsize, if_neg (Nat.not_lt.mpr hmax), readKey_keyBytes hkey, readPayload_maskFrom]

theorem map_meaning_map_ofByte (bs : List Byte) :
    (bs.map SrcAnswer.ofByte).map SrcAnswer.meaning = bs.map Answer.data := by
  rw [List.map_map]
  exact List.map_congr_left fun v _ => SrcAnswer.meaning_ofByte v

/-! ### The source's answers that a run leaves -/

/-- A run of DEC takes answers from the front of the source's list only. -/
theorem decRun_answers_suffix {go : DecPhase → Bool} {as : List SrcAnswer} {s t : State} (h : decRun go as s = .next t) :
    t.src.answers <:+ s.src.answers := by
  refine decRun_keeps (P := fun u => u.src.answers <:+ s.src.answers) (fun a u v _ hu hv => ?_) as s t List.suffix_rfl h
  obtain ⟨d, rfl⟩ := decTransfer_onlyDec hv
  exact (List.tail_suffix u.src.answers).trans hu

theorem exec_decode_answers_suffix {s t : State} (h : exec .decode s = .next t) : t.src.answers <:+ s.src.answers := by
  change execDecode s = .next t at h
  unfold execDecode at h
  split_ifs at h
  · exact decRun_answers_suffix (s := s.withDec Dec.started) h
  · exact Host.Outcome.next.inj h ▸ List.suffix_rfl

/-- Settles O46: the operation gives `f` back, the steps agree with it (R168), and the answers left are a suffix of the source's
list as long as `rest`. -/
theorem decodeOfEncodedFrameGivesItBack : Obligations.DecodeOfEncodedFrameGivesItBack := by
  unfold Obligations.DecodeOfEncodedFrameGivesItBack
  intro s f rest hidle hfits hsrc
  simp only [Frame.fits, Bool.and_eq_true, decide_eq_true_eq] at hfits
  obtain ⟨hkey, hmax⟩ := hfits
  obtain ⟨t, hexec, hshows, hunread, hcount, hframe⟩ := exec_decode_shows hidle
  rw [hsrc, List.map_append, map_meaning_map_ofByte, opDecode_encodeBytes hkey hmax] at hshows hunread hcount
  obtain ⟨hphase, hres, hf⟩ := hshows
  have hleft : t.src.answers.length = rest.length := by simpa [Read.unread] using congrArg List.length hunread
  have hrest : t.src.answers = rest :=
    (List.suffix_of_suffix_length_le (exec_decode_answers_suffix hexec) ⟨_, hsrc.symm⟩ hleft.le).eq_of_length hleft
  refine ⟨t, hexec, hphase, hres, hf, hrest, ?_, hframe⟩
  simp only [Read.endings, List.length_append, List.length_map, hleft] at hcount
  omega

end Sys2Proof.Machine
end

section
/-! PROOFS. Hazards (70_reset_and_hazards.md R252): a start given to a busy unit is ignored, in each form a start has. -/

namespace Sys2Proof.Machine

/-! ### The commands -/

theorem exec_decode_of_busy {s : State} (h : s.dec.phase ≠ .idle) : exec .decode s = .next s :=
  if_neg h

theorem exec_encode_of_busy {s : State} (p : EncPorts) (h : s.enc.phase ≠ .idle) : exec (.encode p) s = .next s :=
  if_neg h

/-! ### The start wires (R49, R50) -/

theorem decSelect_decStart_of_busy {s : State} (w : Edge) (b : Bool) (h : s.dec.phase ≠ .idle) :
    decSelect { w with decStart := b } s = decSelect w s := by
  simp only [decSelect, if_neg h]

theorem encSelect_encStart_of_busy {s : State} (w : Edge) (b : Bool) (h : s.enc.phase ≠ .idle) :
    encSelect { w with encStart := b } s = encSelect w s := by
  simp only [encSelect, if_neg h]

/-- Two continuations that agree on the state an outcome goes on with give one outcome. -/
theorem andThen_congr {o : Out} {k k' : State → Out} (h : ∀ t, o = .next t → k t = k' t) : andThen o k = andThen o k' := by
  cases o with
  | next t => exact h t rfl
  | fault f => rfl
  | refused r => rfl

/-- An edge depends on its wires through `rst` and what each unit selects; ENC selects in the state that DEC's step leaves. -/
theorem edgeStep_congr {w w' : Edge} {s : State} (hrst : w'.rst = w.rst) (hdec : decSelect w' s = decSelect w s)
    (henc : ∀ t, runSelected (decSelect w) s = .next t → encSelect w' t = encSelect w t) : edgeStep w' s = edgeStep w s := by
  have hrun : runSelected (decSelect w') s = runSelected (decSelect w) s := by rw [runSelected, hdec, runSelected]
  have hnext : ∀ t, runSelected (decSelect w) s = .next t → runSelected (encSelect w') t = runSelected (encSelect w) t :=
    fun t ht => by rw [runSelected, henc t ht, runSelected]
  rw [edgeStep, edgeStep, hrst, hrun, andThen_congr hnext]

theorem edgeStep_decStart_of_busy {s : State} (w : Edge) (b : Bool) (h : s.dec.phase ≠ .idle) :
    edgeStep { w with decStart := b } s = edgeStep w s :=
  edgeStep_congr rfl (decSelect_decStart_of_busy w b h) fun _ _ => rfl

/-- ENC is as busy after DEC's step of the edge as before it. -/
theorem edgeStep_encStart_of_busy {s : State} (w : Edge) (b : Bool) (h : s.enc.phase ≠ .idle) :
    edgeStep { w with encStart := b } s = edgeStep w s := by
  refine edgeStep_congr rfl rfl fun t ht => encSelect_encStart_of_busy w b ?_
  have henc : t.enc = s.enc := by rw [runSelected_dec_frame ht]
  rwa [henc]

/-- A step at an edge depends on the edge's wires through `edgeStep` alone. -/
theorem step_eq_of_edgeStep_eq {s : State} {w w' : Edge} {rest : List Request} (hs : s.agenda = .edge w :: rest)
    (h : edgeStep w' (s.requestTaken rest) = edgeStep w (s.requestTaken rest)) :
    step s = step { s with agenda := .edge w' :: rest } :=
  calc step s = edgeStep w (s.requestTaken rest) := step_of_edge hs
    _ = edgeStep w' (s.requestTaken rest) := h.symm
    _ = step { s with agenda := .edge w' :: rest } :=
      (step_of_edge (s := { s with agenda := .edge w' :: rest }) rfl).symm

/-- Settles O48: the commands and the START rows by the phase test they begin with, the start wires by what an edge selects. -/
theorem startsWhileBusyAreIgnored : Obligations.StartsWhileBusyAreIgnored := by
  unfold Obligations.StartsWhileBusyAreIgnored
  refine fun s p w rest => ⟨fun h => ⟨exec_decode_of_busy h, exec_decStart_of_busy h⟩,
    fun h => ⟨exec_encode_of_busy p h, encBegin_of_busy p h⟩, fun hs h => ?_, fun hs h => ?_⟩
  · exact step_eq_of_edgeStep_eq hs (edgeStep_decStart_of_busy w false h)
  · exact step_eq_of_edgeStep_eq hs (edgeStep_encStart_of_busy w false h)

end Sys2Proof.Machine
end

section
/-! PROOFS. Every instruction as a composition of its unit's moves (30_encoding.md R109, R112): what the moves keep between two
states, each row keeps between its two outcomes. An invariant is the case of one state related to itself. -/

namespace Sys2Proof.Machine

/-! ### Outcomes that are alike -/

/-- Two outcomes go on in related states, or stop for one reason. -/
inductive Alike (R : State → State → Prop) : Out → Out → Prop
  | next {t t' : State} (h : R t t') : Alike R (.next t) (.next t')
  | fault (f : Fault) : Alike R (.fault f) (.fault f)
  | refused (r : Refusal) : Alike R (.refused r) (.refused r)

theorem Alike.andThen {R : State → State → Prop} {o o' : Out} {k k' : State → Out} (h : Alike R o o')
    (hk : ∀ t t', R t t' → Alike R (k t) (k' t')) : Alike R (andThen o k) (andThen o' k') := by
  cases h with
  | next h => exact hk _ _ h
  | fault f => exact .fault f
  | refused r => exact .refused r

/-- The relation of an invariant: one state, and the invariant holds of it. -/
def Kept (P : State → Prop) (s s' : State) : Prop := s' = s ∧ P s

/-- What an invariant needs of an outcome. -/
def Keeps (P : State → Prop) (o : Out) : Prop := ∀ t, o = .next t → P t

theorem alike_kept {P : State → Prop} {o : Out} : Alike (Kept P) o o ↔ Keeps P o := by
  constructor
  · rintro h t rfl
    cases h with
    | next h => exact h.2
  · intro h
    cases o with
    | next t => exact .next ⟨rfl, h t rfl⟩
    | fault f => exact .fault f
    | refused r => exact .refused r

/-- The relation of a change that the moves do not see: the second state is the first one changed by `f`. -/
def Changed (f : State → State) (P : State → Prop) (s s' : State) : Prop := s' = f s ∧ P s

/-- Alike by a change: the one outcome is the other with its state changed. -/
theorem andThen_eq_of_alike {f : State → State} {P : State → Prop} {o o' : Out} (h : Alike (Changed f P) o o') :
    o' = andThen o fun t => .next (f t) := by
  cases h with
  | next h => exact congrArg _ h.1
  | fault f => rfl
  | refused r => rfl

/-! ### Rows that run in one phase -/

section

variable {R : State → State → Prop} {s s' : State} {k k' : Out}

theorem Alike.whenDec {ph : DecPhase} (h : R s s') (hphase : s'.dec.phase = s.dec.phase)
    (hk : s.dec.phase = ph → Alike R k k') : Alike R (whenDec ph s k) (whenDec ph s' k') := by
  unfold Machine.whenDec
  rw [hphase]
  split_ifs with h1
  · exact hk h1
  · exact .next h
  · exact .refused _

theorem Alike.whenEnc {ph : EncPhase} (h : R s s') (hphase : s'.enc.phase = s.enc.phase)
    (hk : s.enc.phase = ph → Alike R k k') : Alike R (whenEnc ph s k) (whenEnc ph s' k') := by
  unfold Machine.whenEnc
  rw [hphase]
  split_ifs with h1
  · exact hk h1
  · exact .next h
  · exact .refused _

/-- A choice by a condition that holds of both states or of neither. -/
theorem Alike.ite {p p' : Prop} [Decidable p] [Decidable p'] {l l' : Out} (hp : p' ↔ p) (hk : p → Alike R k k')
    (hl : ¬ p → Alike R l l') : Alike R (if p then k else l) (if p' then k' else l') := by
  simp only [hp]
  split_ifs with h1
  · exact hk h1
  · exact hl h1

/-- A row guarded by a condition of its word or of the unit's registers. -/
theorem Alike.guard {p p' : Prop} [Decidable p] [Decidable p'] {r : Refusal} (hp : p' ↔ p) (h : p → Alike R k k') :
    Alike R (if p then k else .refused r) (if p' then k' else .refused r) :=
  .ite hp h fun _ => .refused r

end

/-! ### DEC -/

/-- What a relation of states needs for every row of DEC to keep it: it fixes what the rows' guards ask, and DEC's moves keep it. -/
structure DecMoves (R : State → State → Prop) : Prop where
  dec_phase {s s' : State} : R s s' → s'.dec.phase = s.dec.phase
  dec_masked {s s' : State} : R s s' → s'.dec.masked = s.dec.masked
  dec_cnt {s s' : State} : R s s' → s'.dec.cnt = s.dec.cnt
  answers {s s' : State} : R s s' → s'.src.answers = s.src.answers
  takeAnswer {s s' : State} (a : SrcAnswer) : R s s' → R (s.takeAnswer a) (s'.takeAnswer a)
  bytesGiven {s s' : State} (k : Nat) : R s s' → R (s.bytesGiven k) (s'.bytesGiven k)
  start {s s' : State} : R s s' → s.dec.phase = .idle → R (s.withDec Dec.started) (s'.withDec Dec.started)
  data {s s' : State} (v : Byte) : R s s' → Alike R (decDataStep v s) (decDataStep v s')
  fail {s s' : State} (e : FrameError) : R s s' → s.dec.phase ≠ .idle → R (s.raise .dec e) (s'.raise .dec e)
  check {s s' : State} (m : Bool) (l7 : BitVec 7) : R s s' → Alike R (execLenChk m l7 s) (execLenChk m l7 s')

/-- A run of DEC keeps what a transfer keeps. -/
theorem Alike.decRun {R : State → State → Prop} {go : DecPhase → Bool}
    (hphase : ∀ {s s' : State}, R s s' → s'.dec.phase = s.dec.phase)
    (htransfer : ∀ {s s' : State} (a : SrcAnswer), R s s' → Alike R (decTransfer a s) (decTransfer a s'))
    (as : List SrcAnswer) {s s' : State} (h : R s s') : Alike R (decRun go as s) (decRun go as s') := by
  induction as generalizing s s' with
  | nil => exact .next h
  | cons a as ih =>
    unfold Machine.decRun
    rw [hphase h]
    split_ifs
    · exact (htransfer a h).andThen fun _ _ => ih
    · exact .next h

namespace DecMoves

variable {R : State → State → Prop} (hR : DecMoves R) {s s' : State}

include hR

theorem failIn (ph : BitVec 3) (e : FrameError) (h : R s s') : Alike R (decFailIn ph e s) (decFailIn ph e s') := by
  unfold decFailIn
  refine .guard Iff.rfl fun hph => ?_
  rw [hR.dec_phase h]
  split_ifs with h1 h2
  · exact .next <| hR.fail e h fun hidle => by simp [← h1, hidle, DecPhase.code] at hph
  · exact .next h
  · exact .refused _

/-- A DSTEP row on a byte is the step that PHASE names, when it runs at all. -/
theorem dataRow {ph : DecPhase} {v : Byte} {row : State → Out} (hrow : ∀ s, s.dec.phase = ph → decDataStep v s = row s)
    (hwhen : ∀ s, ∃ k, row s = whenDec ph s k) (h : R s s') : Alike R (row s) (row s') := by
  by_cases hph : s.dec.phase = ph
  · rw [← hrow s hph, ← hrow s' ((hR.dec_phase h).trans hph)]
    exact hR.data v h
  · obtain ⟨k, hk⟩ := hwhen s
    obtain ⟨k', hk'⟩ := hwhen s'
    rw [hk, hk']
    exact .whenDec h (hR.dec_phase h) fun hph' => absurd hph' hph

theorem hdr0 (v : Byte) (h : R s s') : Alike R (execDecHdr0 v s) (execDecHdr0 v s') :=
  hR.dataRow (fun s hs => by rw [decDataStep, hs]) (fun _ => ⟨_, rfl⟩) h

theorem hdr1 (v : Byte) (h : R s s') : Alike R (execDecHdr1 v s) (execDecHdr1 v s') :=
  hR.dataRow (fun s hs => by rw [decDataStep, hs]) (fun _ => ⟨_, rfl⟩) h

theorem transfer (a : SrcAnswer) (h : R s s') : Alike R (decTransfer a s) (decTransfer a s') := by
  unfold decTransfer
  rw [hR.dec_phase h]
  split
  · exact hR.data _ (hR.takeAnswer a h)
  · exact hR.failIn _ _ (hR.takeAnswer a h)
  · exact hR.failIn _ _ (hR.takeAnswer a h)

theorem run (go : DecPhase → Bool) (h : R s s') : Alike R (decRun go s.src.answers s) (decRun go s'.src.answers s') := by
  rw [hR.answers h]
  exact .decRun hR.dec_phase hR.transfer _ h

theorem opening (b0 b1 : Byte) (h : R s s') : Alike R (takeOpening b0 b1 s) (takeOpening b0 b1 s') :=
  .whenDec h (hR.dec_phase h) fun _ => (hR.hdr0 b0 (hR.bytesGiven 2 h)).andThen fun _ _ => hR.hdr1 b1

theorem header (b0 b1 : Byte) (h : R s s') : Alike R (takeHeader b0 b1 s) (takeHeader b0 b1 s') := by
  refine .whenDec h (hR.dec_phase h) fun _ => (hR.opening b0 b1 h).andThen fun _ _ => ?_
  rw [hR.answers h]
  exact .decRun hR.dec_phase hR.transfer _

theorem length (b1 : Byte) (h : R s s') : Alike R (takeLength b1 s) (takeLength b1 s') := by
  refine .whenDec h (hR.dec_phase h) fun _ => (hR.hdr1 b1 (hR.bytesGiven 1 h)).andThen fun _ _ => ?_
  rw [hR.answers h]
  exact .decRun hR.dec_phase hR.transfer _

theorem start_row (h : R s s') : Alike R (execDecStart s) (execDecStart s') := by
  unfold execDecStart
  rw [hR.dec_phase h]
  split_ifs with hidle
  · exact .next (hR.start h hidle)
  · exact .next h

theorem decode (h : R s s') : Alike R (execDecode s) (execDecode s') := by
  unfold execDecode
  rw [hR.dec_phase h]
  split_ifs with hidle
  · exact hR.run DecPhase.busy (hR.start h hidle)
  · exact .next h

theorem keyBytes (l7 : BitVec 7) (h : R s s') : Alike R (execMaskKey .dec l7 s) (execMaskKey .dec l7 s') :=
  .guard (by rw [hR.dec_phase h, hR.dec_cnt h]) fun _ => hR.run _ h

theorem payloadByte (m : Bool) (h : R s s') : Alike R (payloadByteOn .dec m s) (payloadByteOn .dec m s') := by
  refine .guard (by rw [hR.dec_phase h, hR.dec_masked h]) fun _ => ?_
  rw [hR.answers h]
  split
  · exact .next h
  · exact hR.transfer _ h

/-- Every row of DEC, from related states, comes to like outcomes. -/
theorem exec_alike {i : Instr} (hi : unitOf i = .dec) (h : R s s') : Alike R (exec i s) (exec i s') := by
  cases i with
  | decode => exact hR.decode h
  | hdrS side f l7 | hdrSM side f l7 => obtain rfl := hi; exact .guard Iff.rfl fun _ => hR.header _ _ h
  | hdrE16 side f | hdrE16M side f | hdrE64 side f | hdrE64M side f => obtain rfl := hi; exact hR.header _ _ h
  | opCont side fin rsv b1 | opText side fin rsv b1 | opBin side fin rsv b1 | opRsvd3 side fin rsv b1 | opRsvd4 side fin rsv b1
  | opRsvd5 side fin rsv b1 | opRsvd6 side fin rsv b1 | opRsvd7 side fin rsv b1 | opClose side fin rsv b1 | opPing side fin rsv b1
  | opPong side fin rsv b1 | opRsvd11 side fin rsv b1 | opRsvd12 side fin rsv b1 | opRsvd13 side fin rsv b1 | opRsvd14 side fin rsv b1
  | opRsvd15 side fin rsv b1 => obtain rfl := hi; exact hR.opening _ _ h
  | decStart => exact hR.start_row h
  | decHdr0 v => exact hR.hdr0 v h
  | decHdr1 v => exact hR.hdr1 v h
  | decExt v | decKey v | decPay v => exact hR.dataRow (v := v) (fun s hs => by rw [decDataStep, hs]; rfl) (fun _ => ⟨_, rfl⟩) h
  | decEos ph | decFault ph c => exact hR.failIn ph _ h
  | lenD7 m l7 => exact .guard Iff.rfl fun _ => hR.length _ h
  | lenD16 m | lenD64 m => exact hR.length _ h
  | lenChk m l7 => exact hR.check m l7 h
  | maskKey side l7 => obtain rfl := hi; exact hR.keyBytes l7 h
  | maskXor side l7 | maskPass side l7 => obtain rfl := hi; exact hR.payloadByte _ h
  | encode | encStart | encHdr0 | encHdr1 | encExt | encKey | encPay | encFlush | encFault | lenTier | lenE7 | lenE16 | lenE64 =>
    cases hi

end DecMoves

/-! ### ENC -/

/-- What a relation of states needs for every row of ENC to keep it. -/
structure EncMoves (R : State → State → Prop) : Prop where
  enc_phase {s s' : State} : R s s' → s'.enc.phase = s.enc.phase
  enc_masked {s s' : State} : R s s' → s'.enc.masked = s.enc.masked
  enc_cnt {s s' : State} : R s s' → s'.enc.cnt = s.enc.cnt
  answers {s s' : State} : R s s' → s'.snk.answers = s.snk.answers
  /-- b0 at the offer of phase HDR0, b1 at that of HDR0's successor, as a row of a header compares them -/
  opening {s s' : State} : R s s' → s.enc.phase = .hdr0 → s'.enc.b0 s'.offerCount = s.enc.b0 s.offerCount ∧
    s'.enc.b1 (s'.offerCount + 1) = s.enc.b1 (s.offerCount + 1)
  second {s s' : State} : R s s' → s.enc.phase = .hdr1 → s'.enc.b1 s'.offerCount = s.enc.b1 s.offerCount
  takeReply {s s' : State} : R s s' → R s.takeReply s'.takeReply
  start {s s' : State} (p : EncPorts) : R s s' → Alike R (encBegin p s) (encBegin p s')
  ok {s s' : State} : R s s' → Alike R (encOkStep s) (encOkStep s')
  fail {s s' : State} (c : Cause) : R s s' → s.enc.phase ≠ .idle → R (s.raise .enc (.io c)) (s'.raise .enc (.io c))
  tier {s s' : State} (m : Bool) (l7 : BitVec 7) : R s s' → Alike R (execLenTier m l7 s) (execLenTier m l7 s')

/-- A run of ENC keeps what a transfer keeps. -/
theorem Alike.encRun {R : State → State → Prop} {go : EncPhase → Bool}
    (hphase : ∀ {s s' : State}, R s s' → s'.enc.phase = s.enc.phase)
    (htransfer : ∀ {s s' : State} (a : SnkAnswer), R s s' → Alike R (encTransfer a s) (encTransfer a s'))
    (as : List SnkAnswer) {s s' : State} (h : R s s') : Alike R (encRun go as s) (encRun go as s') := by
  induction as generalizing s s' with
  | nil => exact .next h
  | cons a as ih =>
    unfold Machine.encRun
    rw [hphase h]
    split_ifs
    · exact (htransfer a h).andThen fun _ _ => ih
    · exact .next h

namespace EncMoves

variable {R : State → State → Prop} (hR : EncMoves R) {s s' : State}

include hR

theorem faultIn (ph : BitVec 3) (c : Cause) (h : R s s') : Alike R (execEncFault ph c s) (execEncFault ph c s') := by
  unfold execEncFault
  refine .guard Iff.rfl fun hph => ?_
  rw [hR.enc_phase h]
  split_ifs with h1 h2
  · exact .next <| hR.fail c h fun hidle => by simp [← h1, hidle, EncPhase.code] at hph
  · exact .next h
  · exact .refused _

/-- An ESTEP row at `Ok` is the step that PHASE names, when it runs at all. -/
theorem okRow {ph : EncPhase} {row : State → Out} (hrow : ∀ s, s.enc.phase = ph → encOkStep s = row s)
    (hwhen : ∀ s, ∃ k, row s = whenEnc ph s k) (h : R s s') : Alike R (row s) (row s') := by
  by_cases hph : s.enc.phase = ph
  · rw [← hrow s hph, ← hrow s' ((hR.enc_phase h).trans hph)]
    exact hR.ok h
  · obtain ⟨k, hk⟩ := hwhen s
    obtain ⟨k', hk'⟩ := hwhen s'
    rw [hk, hk']
    exact .whenEnc h (hR.enc_phase h) fun hph' => absurd hph' hph

theorem transfer (a : SnkAnswer) (h : R s s') : Alike R (encTransfer a s) (encTransfer a s') := by
  unfold encTransfer
  rw [hR.enc_phase h]
  split
  · exact hR.ok (hR.takeReply h)
  · exact hR.faultIn _ _ (hR.takeReply h)

theorem run (go : EncPhase → Bool) (h : R s s') : Alike R (encRun go s.snk.answers s) (encRun go s'.snk.answers s') := by
  rw [hR.answers h]
  exact .encRun hR.enc_phase hR.transfer _ h

theorem header (go : EncPhase → Bool) (b0 b1 : Byte) (h : R s s') : Alike R (putHeader go b0 b1 s) (putHeader go b0 b1 s') := by
  refine .whenEnc h (hR.enc_phase h) fun hph => .guard ?_ fun _ => hR.run go h
  obtain ⟨hb0, hb1⟩ := hR.opening h hph
  rw [hb0, hb1]

theorem length (b1 : Byte) (h : R s s') : Alike R (putLength b1 s) (putLength b1 s') :=
  .whenEnc h (hR.enc_phase h) fun hph => .guard (by rw [hR.second h hph]) fun _ => hR.run _ h

theorem encode (p : EncPorts) (h : R s s') : Alike R (execEncode p s) (execEncode p s') := by
  unfold execEncode
  rw [hR.enc_phase h, hR.answers h]
  split_ifs
  · exact (hR.start p h).andThen fun _ _ => .encRun hR.enc_phase hR.transfer _
  · exact .next h

theorem keyBytes (l7 : BitVec 7) (h : R s s') : Alike R (execMaskKey .enc l7 s) (execMaskKey .enc l7 s') :=
  .guard (by rw [hR.enc_phase h, hR.enc_cnt h]) fun _ => hR.run _ h

theorem payloadByte (m : Bool) (h : R s s') : Alike R (payloadByteOn .enc m s) (payloadByteOn .enc m s') := by
  refine .guard (by rw [hR.enc_phase h, hR.enc_masked h]) fun _ => ?_
  rw [hR.answers h]
  split
  · exact .next h
  · exact hR.transfer _ h

/-- Every row of ENC, from related states, comes to like outcomes. -/
theorem exec_alike {i : Instr} (hi : unitOf i = .enc) (h : R s s') : Alike R (exec i s) (exec i s') := by
  cases i with
  | encode p => exact hR.encode p h
  | hdrS side f l7 | hdrSM side f l7 => obtain rfl := hi; exact .guard Iff.rfl fun _ => hR.header _ _ _ h
  | hdrE16 side f | hdrE16M side f | hdrE64 side f | hdrE64M side f => obtain rfl := hi; exact hR.header _ _ _ h
  | opCont side fin rsv b1 | opText side fin rsv b1 | opBin side fin rsv b1 | opRsvd3 side fin rsv b1 | opRsvd4 side fin rsv b1
  | opRsvd5 side fin rsv b1 | opRsvd6 side fin rsv b1 | opRsvd7 side fin rsv b1 | opClose side fin rsv b1 | opPing side fin rsv b1
  | opPong side fin rsv b1 | opRsvd11 side fin rsv b1 | opRsvd12 side fin rsv b1 | opRsvd13 side fin rsv b1 | opRsvd14 side fin rsv b1
  | opRsvd15 side fin rsv b1 => obtain rfl := hi; exact hR.header _ _ _ h
  | encStart p => exact hR.start p h
  | encHdr0 | encHdr1 | encExt | encKey | encPay | encFlush =>
    exact hR.okRow (fun s hs => by rw [encOkStep, hs]; rfl) (fun _ => ⟨_, rfl⟩) h
  | encFault ph c => exact hR.faultIn ph c h
  | lenTier m l7 => exact hR.tier m l7 h
  | lenE7 m l7 => exact .guard Iff.rfl fun _ => hR.length _ h
  | lenE16 m | lenE64 m => exact hR.length _ h
  | maskKey side l7 => obtain rfl := hi; exact hR.keyBytes l7 h
  | maskXor side l7 | maskPass side l7 => obtain rfl := hi; exact hR.payloadByte _ h
  | decode | decStart | decHdr0 | decHdr1 | decExt | decKey | decPay | decEos | decFault | lenD7 | lenD16 | lenD64 | lenChk => cases hi

end EncMoves

/-! ### Invariants -/

/-- What DEC's moves have to keep for every row of DEC to keep a property. -/
theorem DecMoves.of_keeps {P : State → Prop} (hsrc : ∀ s z, P s → P { s with src := z })
    (hstart : ∀ s : State, P s → s.dec.phase = .idle → P (s.withDec Dec.started))
    (hdata : ∀ s v, P s → Keeps P (decDataStep v s))
    (hfail : ∀ (s : State) e, P s → s.dec.phase ≠ .idle → P (s.raise .dec e)) : DecMoves (Kept P) where
  dec_phase := fun ⟨h, _⟩ => by rw [h]
  dec_masked := fun ⟨h, _⟩ => by rw [h]
  dec_cnt := fun ⟨h, _⟩ => by rw [h]
  answers := fun ⟨h, _⟩ => by rw [h]
  takeAnswer := fun _ ⟨h, hs⟩ => ⟨by rw [h], hsrc _ _ hs⟩
  bytesGiven := fun _ ⟨h, hs⟩ => ⟨by rw [h], hsrc _ _ hs⟩
  start := fun ⟨h, hs⟩ hidle => ⟨by rw [h], hstart _ hs hidle⟩
  data := fun v ⟨h, hs⟩ => by rw [h, alike_kept]; exact hdata _ v hs
  fail := fun e ⟨h, hs⟩ hbusy => ⟨by rw [h], hfail _ e hs hbusy⟩
  check := fun {s _} m l7 ⟨h, hs⟩ => by
    rw [h, alike_kept]
    intro t ht
    unfold execLenChk Dec.lengthComplete at ht
    split_ifs at ht with hcomplete hover
    · rw [← Host.Outcome.next.inj ht]
      refine hfail s _ hs fun hidle => ?_
      simp [DecPhase.busy, hidle] at hcomplete
    · exact Host.Outcome.next.inj ht ▸ hs

/-- What ENC's moves have to keep for every row of ENC to keep a property. -/
theorem EncMoves.of_keeps {P : State → Prop} (hanswers : ∀ s : State, P s → P s.takeReply)
    (hstart : ∀ (s : State) (p : EncPorts), P s → s.enc.phase = .idle → p.len ≤ s.maxPayload → P (s.withEnc (Enc.started p)))
    (hok : ∀ s, P s → Keeps P (encOkStep s))
    (hfail : ∀ (s : State) c, P s → s.enc.phase ≠ .idle → P (s.raise .enc (.io c)))
    (htier : ∀ (s : State) c, P s → s.enc.phase = .hdr1 → P (s.withEnc { s.enc with cnt := c })) : EncMoves (Kept P) where
  enc_phase := fun ⟨h, _⟩ => by rw [h]
  enc_masked := fun ⟨h, _⟩ => by rw [h]
  enc_cnt := fun ⟨h, _⟩ => by rw [h]
  answers := fun ⟨h, _⟩ => by rw [h]
  opening := fun ⟨h, _⟩ _ => by rw [h]; exact ⟨rfl, rfl⟩
  second := fun ⟨h, _⟩ _ => by rw [h]
  takeReply := fun ⟨h, hs⟩ => ⟨by rw [h], hanswers _ hs⟩
  start := fun {s _} p ⟨h, hs⟩ => by
    rw [h, alike_kept]
    intro t ht
    unfold encBegin at ht
    split_ifs at ht with hidle hlen
    · exact Host.Outcome.next.inj ht ▸ hstart s p hs hidle (BitVec.not_lt.mp hlen)
    · exact Host.Outcome.next.inj ht ▸ hs
  ok := fun ⟨h, hs⟩ => by rw [h, alike_kept]; exact hok _ hs
  fail := fun c ⟨h, hs⟩ hbusy => ⟨by rw [h], hfail _ c hs hbusy⟩
  tier := fun {s _} m l7 ⟨h, hs⟩ => by
    rw [h, alike_kept]
    intro t ht
    unfold execLenTier at ht
    split_ifs at ht with hphase
    exact Host.Outcome.next.inj ht ▸ htier s _ hs hphase

theorem DecMoves.exec_keeps {P : State → Prop} (hP : DecMoves (Kept P)) {i : Instr} (hi : unitOf i = .dec) {s t : State}
    (hs : P s) (ht : exec i s = .next t) : P t :=
  alike_kept.mp (hP.exec_alike hi ⟨rfl, hs⟩) t ht

theorem EncMoves.exec_keeps {P : State → Prop} (hP : EncMoves (Kept P)) {i : Instr} (hi : unitOf i = .enc) {s t : State}
    (hs : P s) (ht : exec i s = .next t) : P t :=
  alike_kept.mp (hP.exec_alike hi ⟨rfl, hs⟩) t ht

/-! ### The frame of a unit's rows -/

/-- From `s` only DEC and its source have changed. -/
def DecFrame (s t : State) : Prop := t = { s with dec := t.dec, src := t.src }

/-- From `s` only ENC and its sink have changed. -/
def EncFrame (s t : State) : Prop := t = { s with enc := t.enc, snk := t.snk }

theorem decFrame_moves (s : State) : DecMoves (Kept (DecFrame s)) := by
  refine .of_keeps (fun u z h => ?_) (fun u h _ => ?_) (fun u v h t ht => ?_) (fun u e h _ => ?_)
  · rw [DecFrame, h]
  · rw [DecFrame, h]; rfl
  · obtain ⟨d, rfl⟩ := decDataStep_onlyDec ht
    rw [DecFrame, h]; rfl
  · rw [DecFrame, h]; rfl

theorem encFrame_moves (s : State) : EncMoves (Kept (EncFrame s)) := by
  refine .of_keeps (fun u h => ?_) (fun u p h _ _ => ?_) (fun u h t ht => ?_) (fun u c h _ => ?_) (fun u c h _ => ?_)
  · rw [EncFrame, h]; rfl
  · rw [EncFrame, h]; rfl
  · obtain ⟨e, k, rfl⟩ := encOkStep_onlyEnc ht
    rw [EncFrame, h]
  · rw [EncFrame, h]; rfl
  · rw [EncFrame, h]; rfl

theorem exec_decFrame {i : Instr} (hi : unitOf i = .dec) {s t : State} (ht : exec i s = .next t) : DecFrame s t :=
  (decFrame_moves s).exec_keeps hi (s := s) (show DecFrame s s from rfl) ht

theorem exec_encFrame {i : Instr} (hi : unitOf i = .enc) {s t : State} (ht : exec i s = .next t) : EncFrame s t :=
  (encFrame_moves s).exec_keeps hi (s := s) (show EncFrame s s from rfl) ht

/-- Settles O8: every row of DEC is made of moves that write DEC and its source only. -/
theorem decoderInstructionsLeaveEncoder : Obligations.DecoderInstructionsLeaveEncoder := by
  unfold Obligations.DecoderInstructionsLeaveEncoder
  intro i s t hi ht
  rw [exec_decFrame hi ht]
  exact ⟨rfl, rfl, rfl, rfl, rfl, rfl⟩

/-- Settles O9: every row of ENC is made of moves that write ENC and its sink only. -/
theorem encoderInstructionsLeaveDecoder : Obligations.EncoderInstructionsLeaveDecoder := by
  unfold Obligations.EncoderInstructionsLeaveDecoder
  intro i s t hi ht
  rw [exec_encFrame hi ht]
  exact ⟨rfl, rfl, rfl, rfl, rfl, rfl⟩

end Sys2Proof.Machine
end

section
/-! PROOFS. The invariant `Legal` (10_state.md R21, R22, R26 to R46): every move of a unit keeps it, so every row and every step. -/

namespace Sys2Proof.Machine

open Sys2Proof.Spec

/-! ### Lengths and counts -/

theorem zero_lt_of_ne_zero {n : Len} (h : n ≠ 0#64) : 0#64 < n := by
  bv_omega

/-- CNT within 1 to `k` and not at its last value counts down within that range. -/
theorem count_down {c k : BitVec 4} (h1 : 1#4 ≤ c) (hk : c ≤ k) (hlast : c ≠ 1#4) :
    1#4 ≤ c - 1#4 ∧ c - 1#4 ≤ k ∧ k.toNat - (c - 1#4).toNat = k.toNat - c.toNat + 1 := by
  revert c k
  decide

/-! ### DEC's registers, procedure by procedure -/

/-- From b0 to the end of a frame DEC holds FIN and OPC, and no result. -/
def Dec.Receiving (d : Dec) : Prop := d.res = .noResult ∧ d.cause = none ∧ d.fin.isSome = true ∧ d.opc.isSome = true

theorem Dec.Legal.of_busy {max : Len} {d : Dec} (h : d.Legal max) (hbusy : d.phase ≠ .idle) :
    d.res = .noResult ∧ d.cause = none := by
  unfold Dec.Legal at h
  split at h
  · exact absurd ‹_› hbusy
  · exact h ▸ ⟨rfl, rfl⟩
  all_goals exact ⟨h.1, h.2.1⟩

section

variable {max : Len} {d : Dec}

/-- The failed state is legal, whatever the error (R157, R166, R171). -/
theorem Dec.raise_legal (e : FrameError) (hcause : d.cause = none) : (d.raise e).Legal max := by
  have unset : (d.raise e).FrameUnset := ⟨rfl, rfl, rfl, rfl, rfl, rfl⟩
  cases e with
  | io c => exact ⟨rfl, unset⟩
  | truncated | lengthOverflow => exact ⟨hcause, unset⟩

theorem Dec.headerEnd_legal {n : Len} {m : Bool} (hd : d.Receiving) (hlen : d.len = some n) (hn : n ≤ max)
    (hmasked : d.masked = some m) (hkey : d.key.Fits m) (hpbuf : d.pbuf = []) : (headerEnd n d).Legal max := by
  obtain ⟨hres, hcause, hfin, hopc⟩ := hd
  have empty : d.pbuf.Filled 0 := by rw [hpbuf]; rfl
  unfold headerEnd
  split_ifs with h
  · exact ⟨hcause, hfin, hopc, n, m, hlen, hn, hmasked, hkey, by rw [h]; exact empty⟩
  · exact ⟨hres, hcause, hfin, hopc, n, m, 0#64, hlen, hn, hmasked, rfl, zero_lt_of_ne_zero h, hkey, empty⟩

theorem Dec.lengthEnd_legal {n : Len} {m : Bool} (hd : d.Receiving) (hlen : d.len = some n) (hmasked : d.masked = some m)
    (hkey : d.key = KeyRegs.unset) (hpbuf : d.pbuf = []) : (lengthEnd max n m d).Legal max := by
  have ⟨hres, hcause, hfin, hopc⟩ := hd
  unfold lengthEnd
  split_ifs with hover hm
  · exact ⟨hcause, rfl, rfl, rfl, rfl, rfl, rfl⟩
  · exact ⟨hres, hcause, hfin, hopc, hpbuf, hm ▸ hmasked, n, 4#4, hlen, BitVec.not_lt.mp hover, rfl, by decide, by decide,
      fun j hj => absurd hj (Nat.not_lt_zero j)⟩
  · exact Dec.headerEnd_legal hd hlen (BitVec.not_lt.mp hover) hmasked (by simp [hm, hkey, KeyRegs.Fits]) hpbuf

theorem Dec.takeB0_legal (h : d = Dec.started) (v : Byte) : (d.takeB0 v).Legal max := by
  subst h
  exact ⟨rfl, rfl, rfl, rfl, rfl, rfl⟩

theorem Dec.takeB1_legal (h : d.Legal max) (hphase : d.phase = .hdr1) (v : Byte) : (d.takeB1 max v).Legal max := by
  simp only [Dec.Legal, hphase] at h
  obtain ⟨hres, hcause, hfin, hopc, hkey, hpbuf⟩ := h
  by_cases h7 : length7Of v ≤ 125#7
  · rw [Dec.takeB1_of_le_125 _ h7]
    refine Dec.lengthEnd_legal ?_ rfl rfl hkey hpbuf
    exact ⟨hres, hcause, hfin, hopc⟩
  · rw [Dec.takeB1_of_extended _ h7]
    refine ⟨hres, hcause, hfin, hopc, hkey, hpbuf, rfl, 0#64, _, rfl, rfl, ?_, ?_, ?_⟩
    all_goals split_ifs <;> decide

/-- LEN holds no more than the bytes read so far can say (R26). -/
theorem shiftIn_toNat_lt {n : Len} {k : Nat} (h : n.toNat < 2 ^ (8 * k)) (v : Byte) :
    (shiftIn n v).toNat < 2 ^ (8 * (k + 1)) := by
  have hsplit : n = BitVec.ofNat 64 (beNat (beBytes k n.toNat)) := by
    rw [beNat_beBytes_of_lt (by rwa [pow_mul] at h), BitVec.ofNat_toNat, BitVec.setWidth_eq]
  have hlt : beNat (beBytes k n.toNat ++ [v]) < 2 ^ (8 * (k + 1)) := by
    have := beNat_lt (beBytes k n.toNat ++ [v])
    rwa [List.length_append, beBytes_length, List.length_singleton, show 256 = 2 ^ 8 from rfl, ← pow_mul] at this
  rw [hsplit, shiftIn_beNat, BitVec.toNat_ofNat]
  exact (Nat.mod_le _ _).trans_lt hlt

theorem Dec.takeExt_legal (h : d.Legal max) (hphase : d.phase = .ext) (tick : Nat) (v : Byte) :
    (d.takeExt max tick v).Legal max := by
  simp only [Dec.Legal, hphase] at h
  obtain ⟨hres, hcause, hfin, hopc, hkey, hpbuf, hmasked, n, c, hlen, hcnt, hc1, hc8, hn⟩ := h
  obtain ⟨m, hmasked⟩ := Option.isSome_iff_exists.mp hmasked
  rw [Dec.takeExt_of_values hlen hcnt hmasked]
  split_ifs with hlast
  · refine Dec.lengthEnd_legal ?_ rfl hmasked hkey hpbuf
    exact ⟨hres, hcause, hfin, hopc⟩
  · obtain ⟨hc1', hc8', hread⟩ := count_down hc1 hc8 hlast
    simp only [Dec.Legal, hphase]
    exact ⟨hres, hcause, hfin, hopc, hkey, hpbuf, by rw [hmasked]; rfl, shiftIn n v, c - 1#4, rfl, rfl, hc1', hc8',
      hread ▸ shiftIn_toNat_lt hn v⟩

/-- `K[0..j]` hold a value once `K[j]` is written after `K[0..j-1]`. -/
theorem KeyRegs.get_set_isSome {k : KeyRegs} {j : Nat} (hj : j < 4) (h : ∀ i, i < j → (k.get i).isSome = true) (v : Byte) :
    ∀ i, i < j + 1 → ((k.set j v).get i).isSome = true := by
  intro i hi
  rcases Nat.lt_succ_iff_lt_or_eq.mp hi with hlt | rfl
  · have := h i hlt
    interval_cases j <;> interval_cases i <;> exact this
  · interval_cases i <;> rfl

/-- All four key registers hold a value. -/
theorem KeyRegs.fits_of_get {k : KeyRegs} (h : ∀ i, i < 4 → (k.get i).isSome = true) : k.Fits true := by
  obtain ⟨b0, h0⟩ := Option.isSome_iff_exists.mp (h 0 (by decide))
  obtain ⟨b1, h1⟩ := Option.isSome_iff_exists.mp (h 1 (by decide))
  obtain ⟨b2, h2⟩ := Option.isSome_iff_exists.mp (h 2 (by decide))
  obtain ⟨b3, h3⟩ := Option.isSome_iff_exists.mp (h 3 (by decide))
  simp only [KeyRegs.get] at h0 h1 h2 h3
  simp [KeyRegs.Fits, KeyRegs.key4, h0, h1, h2, h3]

theorem Dec.takeKey_legal (h : d.Legal max) (hphase : d.phase = .key) (tick : Nat) (v : Byte) :
    (d.takeKey tick v).Legal max := by
  simp only [Dec.Legal, hphase] at h
  obtain ⟨hres, hcause, hfin, hopc, hpbuf, hmasked, n, c, hlen, hn, hcnt, hc1, hc4, hkeys⟩ := h
  have hset := KeyRegs.get_set_isSome (by rw [BitVec.le_def] at hc1; simp at hc1; omega) hkeys v
  by_cases hlast : c = 1#4
  · subst hlast
    rw [Dec.takeKey_of_last hlen hcnt]
    refine Dec.headerEnd_legal ?_ hlen hn hmasked (KeyRegs.fits_of_get hset) hpbuf
    exact ⟨hres, hcause, hfin, hopc⟩
  · obtain ⟨hc1', hc4', hread⟩ := count_down hc1 hc4 hlast
    rw [Dec.takeKey_of_more hcnt hlast, keyIndex_of_le_four hc4]
    simp only [Dec.Legal, hphase]
    exact ⟨hres, hcause, hfin, hopc, hpbuf, hmasked, n, c - 1#4, hlen, hn, rfl, hc1', hc4', hread ▸ hset⟩

/-- The next cell of a buffer is filled. -/
theorem Memory.Filled.write {mem : Memory} {n : Nat} (h : mem.Filled n) (v : Byte) : (mem.write n v).Filled (n + 1) := by
  unfold Memory.Filled at h ⊢
  rw [Memory.write_append mem n v fun i hi => by rwa [h, List.mem_range] at hi, List.map_append, h, List.range_succ]
  rfl

theorem Dec.takePay_legal (h : d.Legal max) (hphase : d.phase = .pay) (tick : Nat) (v : Byte) :
    (d.takePay tick v).Legal max := by
  simp only [Dec.Legal, hphase] at h
  obtain ⟨hres, hcause, hfin, hopc, n, m, i, hlen, hn, hmasked, hidx, hi, hkey, hfilled⟩ := h
  have hnext : (i + 1#64).toNat = i.toNat + 1 := by
    rw [BitVec.lt_def] at hi
    rw [BitVec.toNat_add, BitVec.toNat_ofNat]
    omega
  have hwrite : (d.pbuf.write i.toNat (d.payByte tick v)).Filled (i + 1#64).toNat := hnext ▸ hfilled.write _
  rw [Dec.takePay_of_values hlen hidx, hphase]
  split_ifs with hlast
  · exact ⟨hcause, hfin, hopc, n, m, hlen, hn, hmasked, hkey, hlast ▸ hwrite⟩
  · have hlt : i + 1#64 < n := by
      rw [← BitVec.toNat_inj] at hlast
      rw [BitVec.lt_def] at hi ⊢
      omega
    exact ⟨hres, hcause, hfin, hopc, n, m, i + 1#64, hlen, hn, hmasked, rfl, hlt, hkey, hwrite⟩

end

/-! ### DEC's moves -/

theorem State.Legal.withDec {s : State} {d : Dec} (h : s.Legal) (hd : d.Legal s.maxPayload) : (s.withDec d).Legal := by
  obtain ⟨-, henc, hwf, hcells⟩ := h
  exact ⟨hd, henc, hwf, hcells⟩

/-- In a legal state the step on a byte goes on: DEC's payload index is a cell's. -/
theorem decDataStep_legal {s : State} (h : s.Legal) (v : Byte) :
    ∃ d, decDataStep v s = .next (s.withDec d) ∧ d.Legal s.maxPayload := by
  have ⟨hdec, _⟩ := h
  cases hphase : s.dec.phase with
  | idle => exact ⟨s.dec, by rw [decDataStep, hphase]; rfl, hdec⟩
  | hdr0 =>
    have hstarted : s.dec = Dec.started := by simpa only [Dec.Legal, hphase] using hdec
    exact ⟨_, decDataStep_of_hdr0 v hphase, Dec.takeB0_legal hstarted v⟩
  | hdr1 => exact ⟨_, decDataStep_of_hdr1 v hphase, Dec.takeB1_legal hdec hphase v⟩
  | ext => exact ⟨_, decDataStep_of_ext v hphase, Dec.takeExt_legal hdec hphase s.tick v⟩
  | key => exact ⟨_, decDataStep_of_key v hphase, Dec.takeKey_legal hdec hphase s.tick v⟩
  | pay =>
    have hpay := hdec
    simp only [Dec.Legal, hphase] at hpay
    obtain ⟨-, -, -, -, n, m, i, -, hn, -, hidx, hi, -, -⟩ := hpay
    exact ⟨_, decDataStep_of_pay v hphase hidx (Nat.lt_of_lt_of_le hi hn), Dec.takePay_legal hdec hphase s.tick v⟩

theorem legal_decMoves : DecMoves (Kept State.Legal) := by
  refine .of_keeps (fun s z h => h) (fun s h _ => h.withDec rfl) (fun s v h t ht => ?_) (fun s e h hbusy => ?_)
  · obtain ⟨d, hstep, hd⟩ := decDataStep_legal h v
    exact Host.Outcome.next.inj (hstep.symm.trans ht) ▸ h.withDec hd
  · have ⟨hdec, _⟩ := h
    have ⟨_, hcause⟩ := hdec.of_busy hbusy
    exact h.withDec (Dec.raise_legal e hcause)

/-! ### ENC's registers, procedure by procedure -/

theorem Enc.Legal.sampled {max : Len} {tentative : List Byte} {e : Enc} (h : e.Legal max tentative) (hbusy : e.phase ≠ .idle) :
    e.Sampled max := by
  unfold Enc.Legal at h
  split at h
  · exact absurd ‹_› hbusy
  · exact h.1
  · exact h
  · exact h.1
  · exact h.1
  · exact h.1
  · exact h

section

variable {max : Len} {tentative : List Byte} {e : Enc} {n : Len}

theorem Enc.started_legal {p : EncPorts} (hlen : p.len ≤ max) : (Enc.started p).Legal max [] := by
  refine ⟨⟨rfl, rfl, rfl, rfl, p.len, p.masked, rfl, hlen, rfl, ?_⟩, rfl⟩
  unfold Enc.started
  cases p.masked <;> rfl

theorem Enc.headerEnd_legal (he : e.Sampled max) (hlen : e.len = some n) : (encHeaderEnd n e).Legal max tentative := by
  unfold encHeaderEnd
  split_ifs with h
  · exact he
  · exact ⟨he, n, 0#64, hlen, rfl, zero_lt_of_ne_zero h⟩

theorem Enc.lengthEnd_legal {m : Bool} (he : e.Sampled max) (hlen : e.len = some n) (hmasked : e.masked = some m) :
    (encLengthEnd n m e).Legal max tentative := by
  unfold encLengthEnd
  split_ifs with hm
  · exact ⟨he, hm ▸ hmasked, 4#4, rfl, by decide, by decide⟩
  · exact Enc.headerEnd_legal he hlen

theorem Enc.afterB1_legal (he : e.Sampled max) (offer : Nat) : (e.afterB1 offer).Legal max tentative := by
  have ⟨_, _, _, _, n, m, hlen, _, hmasked, _⟩ := he
  rw [Enc.afterB1_of_values hmasked hlen]
  have long (h : ¬ n.toNat ≤ 125) : 126#64 ≤ n := BitVec.le_def.mpr (Nat.lt_of_not_le h)
  split_ifs with h7
  · exact Enc.lengthEnd_legal he hlen hmasked
  · exact ⟨he, n, 2#4, hlen, long h7, rfl, by decide, by decide⟩
  · exact ⟨he, n, 8#4, hlen, long h7, rfl, by decide, by decide⟩

theorem Enc.afterExt_legal (h : e.Legal max tentative) (hphase : e.phase = .ext) {tentative' : List Byte} (offer : Nat) :
    (e.afterExt offer).Legal max tentative' := by
  simp only [Enc.Legal, hphase] at h
  obtain ⟨he, n, c, hlen, hn, hcnt, hc1, hc8⟩ := h
  have ⟨_, _, _, _, _, m, _, _, hmasked, _⟩ := he
  rw [Enc.afterExt_of_values hlen hcnt hmasked]
  split_ifs with hlast
  · refine Enc.lengthEnd_legal ?_ hlen hmasked
    exact he
  · obtain ⟨hc1', hc8', -⟩ := count_down hc1 hc8 hlast
    simp only [Enc.Legal, hphase]
    exact ⟨he, n, c - 1#4, hlen, hn, rfl, hc1', hc8'⟩

theorem Enc.afterKeyByte_legal (h : e.Legal max tentative) (hphase : e.phase = .key) {tentative' : List Byte} (offer : Nat) :
    (e.afterKeyByte offer).Legal max tentative' := by
  simp only [Enc.Legal, hphase] at h
  obtain ⟨he, hmasked, c, hcnt, hc1, hc4⟩ := h
  have ⟨_, _, _, _, n, _, hlen, _⟩ := he
  rw [Enc.afterKeyByte_of_values hlen hcnt]
  split_ifs with hlast
  · refine Enc.headerEnd_legal ?_ hlen
    exact he
  · obtain ⟨hc1', hc4', -⟩ := count_down hc1 hc4 hlast
    simp only [Enc.Legal, hphase]
    exact ⟨he, hmasked, c - 1#4, rfl, hc1', hc4'⟩

theorem Enc.afterPay_legal (h : e.Legal max tentative) (hphase : e.phase = .pay) {tentative' : List Byte} (offer : Nat) :
    (e.afterPay offer).Legal max tentative' := by
  simp only [Enc.Legal, hphase] at h
  obtain ⟨he, n, i, hlen, hidx, hi⟩ := h
  rw [Enc.afterPay_of_values hlen hidx]
  split_ifs with hlast
  · exact he
  · have hlt : i + 1#64 < n := by
      rw [← BitVec.toNat_inj, BitVec.toNat_add, BitVec.toNat_ofNat] at hlast
      rw [BitVec.lt_def] at hi ⊢
      rw [BitVec.toNat_add, BitVec.toNat_ofNat]
      omega
    exact ⟨he, n, i + 1#64, hlen, rfl, hlt⟩

end

/-! ### ENC's moves -/

theorem State.Legal.withEnc {s : State} {e : Enc} {k : Sink} (h : s.Legal) (he : e.Legal s.maxPayload k.tentative) :
    State.Legal { s with enc := e, snk := k } := by
  obtain ⟨hdec, -, hwf, hcells⟩ := h
  exact ⟨hdec, he, hwf, hcells⟩

/-- In a legal state the step at `Ok` goes on: ENC's payload index is a cell's. -/
theorem encOkStep_legal {s : State} (h : s.Legal) :
    ∃ e k, encOkStep s = .next { s with enc := e, snk := k } ∧ e.Legal s.maxPayload k.tentative := by
  have ⟨_, henc, _⟩ := h
  cases hphase : s.enc.phase with
  | idle => exact ⟨s.enc, s.snk, by rw [encOkStep, hphase], henc⟩
  | hdr0 =>
    refine ⟨_, _, encOkStep_of_hdr0 hphase, ?_⟩
    exact henc.sampled (by simp [hphase])
  | hdr1 => exact ⟨_, _, encOkStep_of_hdr1 hphase, Enc.afterB1_legal (henc.sampled (by simp [hphase])) _⟩
  | ext => exact ⟨_, _, encOkStep_of_ext hphase, Enc.afterExt_legal henc hphase _⟩
  | key => exact ⟨_, _, encOkStep_of_key hphase, Enc.afterKeyByte_legal henc hphase _⟩
  | pay =>
    have hpay := henc
    simp only [Enc.Legal, hphase] at hpay
    obtain ⟨⟨-, -, -, -, n', m, hlen', hn, -, -⟩, n, i, hlen, hidx, hi⟩ := hpay
    obtain rfl : n' = n := Option.some.inj (hlen'.symm.trans hlen)
    exact ⟨_, _, encOkStep_of_pay hphase hidx (Nat.lt_of_lt_of_le hi hn), Enc.afterPay_legal henc hphase _⟩
  | flush =>
    have ⟨_, hcause, _⟩ := henc.sampled (by simp [hphase])
    exact ⟨_, _, encOkStep_of_flush hphase, rfl, hcause⟩

theorem Enc.Legal.tentative_of_idle {max : Len} {tentative : List Byte} {e : Enc} (h : e.Legal max tentative)
    (hidle : e.phase = .idle) : tentative = [] := by
  simp only [Enc.Legal, hidle] at h
  exact h.1

theorem legal_encMoves : EncMoves (Kept State.Legal) := by
  refine .of_keeps (fun s h => h) (fun s p h hidle hlen => ?_) (fun s h t ht => ?_) (fun s c h _ => ?_) (fun s c h hphase => ?_)
  · have ⟨_, henc, _⟩ := h
    have hstarted : (Enc.started p).Legal s.maxPayload s.snk.tentative :=
      henc.tentative_of_idle hidle ▸ Enc.started_legal hlen
    exact h.withEnc hstarted
  · obtain ⟨e, k, hstep, he⟩ := encOkStep_legal h
    exact Host.Outcome.next.inj (hstep.symm.trans ht) ▸ h.withEnc he
  · exact h.withEnc (k := s.snk.abandon) ⟨rfl, rfl⟩
  · have ⟨_, henc, _⟩ := h
    have hsampled : s.enc.Sampled s.maxPayload := henc.sampled (by simp [hphase])
    refine h.withEnc (k := s.snk) ?_
    simp only [Enc.Legal, hphase]
    exact hsampled

/-! ### Every step -/

theorem exec_legal {i : Instr} {s t : State} (hs : s.Legal) (ht : exec i s = .next t) : t.Legal := by
  cases hi : unitOf i with
  | dec => exact legal_decMoves.exec_keeps hi hs ht
  | enc => exact legal_encMoves.exec_keeps hi hs ht

theorem decInstr_unit {ph : DecPhase} {a : Answer} {i : Instr} (h : decInstr ph a = some i) : unitOf i = .dec := by
  cases ph <;> cases a <;> cases h <;> rfl

theorem encInstr_unit {ph : EncPhase} {r : SinkReply} {i : Instr} (h : encInstr ph r = some i) : unitOf i = .enc := by
  cases ph <;> cases r <;> cases h <;> rfl

/-- DEC at an edge selects a row of its own, in the state before or after the answer is taken. -/
theorem decSelect_eq_some {w : Edge} {s u : State} {i : Instr} (h : decSelect w s = some (i, u)) :
    unitOf i = .dec ∧ (u = s ∨ ∃ a, u = s.takeAnswer a) := by
  unfold decSelect at h
  split_ifs at h
  · obtain ⟨rfl, rfl⟩ := Prod.mk.inj (Option.some.inj h)
    exact ⟨rfl, .inl rfl⟩
  · split at h
    · cases h
    · split at h
      · cases h
      · rename_i hi
        obtain ⟨rfl, rfl⟩ := Prod.mk.inj (Option.some.inj h)
        exact ⟨decInstr_unit hi, .inr ⟨_, rfl⟩⟩

/-- ENC at an edge likewise. -/
theorem encSelect_eq_some {w : Edge} {s u : State} {i : Instr} (h : encSelect w s = some (i, u)) :
    unitOf i = .enc ∧ (u = s ∨ u = s.takeReply) := by
  unfold encSelect at h
  split_ifs at h
  · obtain ⟨rfl, rfl⟩ := Prod.mk.inj (Option.some.inj h)
    exact ⟨rfl, .inl rfl⟩
  · split at h
    · cases h
    · split at h
      · cases h
      · rename_i hi
        obtain ⟨rfl, rfl⟩ := Prod.mk.inj (Option.some.inj h)
        exact ⟨encInstr_unit hi, .inr rfl⟩

/-- What a unit's selected row keeps, the unit keeps at an edge. -/
theorem runSelected_keeps {P : State → Prop} {sel : State → Option (Instr × State)} {s t : State} (hs : P s)
    (hsel : ∀ i u, sel s = some (i, u) → exec i u = .next t → P t) (h : runSelected sel s = .next t) : P t := by
  unfold runSelected at h
  split at h
  · exact Host.Outcome.next.inj h ▸ hs
  · exact hsel _ _ ‹_› h

theorem runSelected_dec_legal {w : Edge} {s t : State} (hs : s.Legal) (h : runSelected (decSelect w) s = .next t) : t.Legal := by
  refine runSelected_keeps hs (fun i u hsel hexec => ?_) h
  obtain ⟨-, rfl | ⟨a, rfl⟩⟩ := decSelect_eq_some hsel
  · exact exec_legal hs hexec
  · exact exec_legal (s := s.takeAnswer a) hs hexec

theorem runSelected_enc_legal {w : Edge} {s t : State} (hs : s.Legal) (h : runSelected (encSelect w) s = .next t) : t.Legal := by
  refine runSelected_keeps hs (fun i u hsel hexec => ?_) h
  obtain ⟨-, rfl | rfl⟩ := encSelect_eq_some hsel
  · exact exec_legal hs hexec
  · exact exec_legal (s := s.takeReply) hs hexec

theorem State.Legal.applyReset {s : State} (h : s.Legal) : s.applyReset.Legal := by
  have ⟨_, henc, hwf, hcells⟩ := h
  have htentative : s.applyReset.snk.tentative = [] := by
    rw [State.applyReset_snk]
    split_ifs with hidle
    · exact henc.tentative_of_idle hidle
    · rfl
  exact ⟨rfl, ⟨htentative, rfl⟩, hwf, hcells⟩

theorem edgeStep_legal {w : Edge} {s t : State} (hs : s.Legal) (h : edgeStep w s = .next t) : t.Legal := by
  unfold edgeStep at h
  split_ifs at h
  · exact Host.Outcome.next.inj h ▸ hs.applyReset
  · obtain ⟨u, hu, ht⟩ := andThen_eq_next.mp h
    exact runSelected_enc_legal (runSelected_dec_legal hs hu) ht

theorem issueStep_legal {table : Table} {word : List Byte} {s t : State} (hs : s.Legal) (h : issueStep table word s = .next t) :
    t.Legal := by
  unfold issueStep at h
  split at h
  · exact exec_legal hs h
  · cases h

/-- A caller's write that lands is a write to a cell below MAX_PAYLOAD. -/
theorem callerWriteStep_eq_next {a : Nat} {v : Byte} {s t : State} (h : callerWriteStep a v s = .next t) :
    a < s.maxPayload.toNat ∧ t = { s with encPbuf := s.encPbuf.write a v } := by
  unfold callerWriteStep at h
  split_ifs at h with hcell
  exact ⟨Nat.lt_of_not_le hcell, (Host.Outcome.next.inj h).symm⟩

theorem callerWriteStep_legal {a : Nat} {v : Byte} {s t : State} (hs : s.Legal) (h : callerWriteStep a v s = .next t) : t.Legal := by
  obtain ⟨ha, rfl⟩ := callerWriteStep_eq_next h
  obtain ⟨hdec, henc, hwf, hcells⟩ := hs
  refine ⟨hdec, henc, Memory.write_wf _ a v hwf, fun c hc => ?_⟩
  rcases Memory.mem_write_fst _ a v (List.mem_map_of_mem hc) with hc | hc
  · exact hc ▸ ha
  · obtain ⟨c', hc', hfst⟩ := List.mem_map.mp hc
    exact hfst ▸ hcells c' hc'

theorem callerReadStep_eq_next {p : OutPort} {s t : State} (h : callerReadStep p s = .next t) : t = s := by
  unfold callerReadStep at h
  split_ifs at h
  exact (Host.Outcome.next.inj h).symm

theorem perform_legal {r : Request} {s t : State} (hs : s.Legal) (h : perform r s = .next t) : t.Legal := by
  cases r with
  | edge w => exact edgeStep_legal hs h
  | issue table word => exact issueStep_legal hs h
  | callerWrite a v => exact callerWriteStep_legal hs h
  | callerRead p => exact callerReadStep_eq_next h ▸ hs

/-- Settles O52: each unit's moves keep `Legal`, and what else a request does, a reset and the caller's writes, keeps it too. -/
theorem legalStatesStayLegal : Obligations.LegalStatesStayLegal := by
  unfold Obligations.LegalStatesStayLegal
  intro s t hs ht
  unfold step at ht
  split at ht
  · exact Host.Outcome.next.inj ht ▸ hs
  · exact perform_legal (s := s.requestTaken _) hs ht

/-- Settles O53: in the state after reset both units are as `Legal` has them while IDLE without a result. -/
theorem resetStateIsLegal : Obligations.ResetStateIsLegal := by
  unfold Obligations.ResetStateIsLegal
  exact ⟨rfl, ⟨rfl, rfl⟩, rfl, fun c hc => absurd hc List.not_mem_nil⟩

end Sys2Proof.Machine
end

section
/-! PROOFS. The encodings (30_encoding.md R92 to R95, R101, R108, R109, R112): each table reads back what it writes, and writes what
it reads. -/

namespace Sys2Proof

open Spec

/-! ### One word of a table -/

theorem decodeByteWith_eq_ok {f : Byte → Except DecodeError Instr} {bs rest : List Byte} {i : Instr}
    (h : decodeByteWith f bs = .ok (i, rest)) : ∃ b, bs = b :: rest ∧ f b = .ok i := by
  cases bs with
  | nil => cases h
  | cons b bs =>
    rw [decodeByteWith] at h
    cases hb : f b with
    | ok j =>
      rw [hb] at h
      obtain ⟨rfl, rfl⟩ := Prod.mk.inj (Except.ok.inj h)
      exact ⟨b, rfl, hb⟩
    | error e =>
      rw [hb] at h
      cases h

theorem decodeByteWith_cons {f : Byte → Except DecodeError Instr} {b : Byte} {i : Instr} (h : f b = .ok i) (rest : List Byte) :
    decodeByteWith f ([b] ++ rest) = .ok (i, rest) := by
  simp only [decodeByteWith, List.singleton_append, h]

theorem decodePairWith_eq_ok {f : Byte → Byte → Instr} {bs rest : List Byte} {i : Instr}
    (h : decodePairWith f bs = .ok (i, rest)) : ∃ b0 b1, bs = b0 :: b1 :: rest ∧ f b0 b1 = i := by
  match bs, h with
  | b0 :: b1 :: bs, h =>
    obtain ⟨rfl, rfl⟩ := Prod.mk.inj (Except.ok.inj h)
    exact ⟨b0, b1, rfl, rfl⟩

/-! ### Headers and opcodes -/

theorem FirstByte.toByte_ofByte (b : Byte) : (FirstByte.ofByte b).toByte = b := by
  revert b
  decide

/-- The header row of a first byte, MASK and length7 (R94). -/
theorem decodeHdr_toByte (side : Side) (f : FirstByte) (m : Bool) (l7 : BitVec 7) :
    decodeHdr side f.toByte (secondByte m l7) = headerRow side f m l7 := by
  simp only [decodeHdr, headerRow, FirstByte.ofByte_toByte, maskOf_secondByte, length7Of_secondByte]

theorem decodeHdr_eq_headerRow (side : Side) (b0 b1 : Byte) :
    decodeHdr side b0 b1 = headerRow side (FirstByte.ofByte b0) (maskOf b1) (length7Of b1) := rfl

/-- The rows with length7 fixed are the rows of 126 and 127; a tier-7 row is that of its own length7. -/
theorem headerRow_of_le_125 (side : Side) (f : FirstByte) (m : Bool) {l7 : BitVec 7} (h : l7 ≤ 125#7) :
    headerRow side f m l7 = if m then .hdrSM side f l7 else .hdrS side f l7 := by
  have h126 : l7 ≠ 126#7 := by rintro rfl; exact absurd h (by decide)
  have h127 : l7 ≠ 127#7 := by rintro rfl; exact absurd h (by decide)
  rw [headerRow, if_neg h126, if_neg h127]

theorem le_125_of_ne {l7 : BitVec 7} (h126 : l7 ≠ 126#7) (h127 : l7 ≠ 127#7) : l7 ≤ 125#7 := by
  bv_omega

/-- A header row stands in its side's table, is well formed, and has b0 and b1 as its word. -/
theorem headerRow_word (side : Side) (f : FirstByte) (m : Bool) (l7 : BitVec 7) :
    (headerRow side f m l7).table = .hdr side ∧ (headerRow side f m l7).wf = true ∧
      encode (headerRow side f m l7) = [f.toByte, secondByte m l7] := by
  by_cases h126 : l7 = 126#7
  · subst h126
    cases m <;> exact ⟨rfl, rfl, rfl⟩
  by_cases h127 : l7 = 127#7
  · subst h127
    cases m <;> exact ⟨rfl, rfl, rfl⟩
  have h125 := le_125_of_ne h126 h127
  rw [headerRow_of_le_125 side f m h125]
  cases m <;> exact ⟨rfl, decide_eq_true h125, rfl⟩

/-- The row of an opcode value stands in its side's table, is well formed, and has that value in b0. -/
theorem opcodeRow_word (o : BitVec 4) (side : Side) (fin : Bool) (rsv : BitVec 3) (b1 : Byte) :
    (opcodeRow o side fin rsv b1).table = .opc side ∧ (opcodeRow o side fin rsv b1).wf = true ∧
      encode (opcodeRow o side fin rsv b1) = [FirstByte.toByte ⟨fin, rsv, o⟩, b1] := by
  obtain ⟨⟨n, hn⟩⟩ := o
  interval_cases n <;> exact ⟨rfl, rfl, rfl⟩

theorem decodeHdr_word (side : Side) (f : FirstByte) (m : Bool) (l7 : BitVec 7) (rest : List Byte) :
    decodeIn (.hdr side) ([f.toByte, secondByte m l7] ++ rest) = .ok (headerRow side f m l7, rest) := by
  rw [← decodeHdr_toByte]
  rfl

theorem decodeOpc_word (o : BitVec 4) (side : Side) (fin : Bool) (rsv : BitVec 3) (b1 : Byte) (rest : List Byte) :
    decodeIn (.opc side) (opcodeWord o fin rsv b1 ++ rest) = .ok (opcodeRow o side fin rsv b1, rest) := by
  change Except.ok (decodeOpc side (FirstByte.toByte ⟨fin, rsv, o⟩) b1, rest) = _
  rw [decodeOpc, FirstByte.ofByte_toByte]

/-! ### Steps -/

theorem decCode_cases {ph : BitVec 3} (h : 1#3 ≤ ph ∧ ph ≤ 5#3) : ph = 1#3 ∨ ph = 2#3 ∨ ph = 3#3 ∨ ph = 4#3 ∨ ph = 5#3 := by
  revert ph
  decide

theorem encCode_cases {ph : BitVec 3} (h : 1#3 ≤ ph ∧ ph ≤ 6#3) :
    ph = 1#3 ∨ ph = 2#3 ∨ ph = 3#3 ∨ ph = 4#3 ∨ ph = 5#3 ∨ ph = 6#3 := by
  revert ph
  decide

theorem decodeDStep_eos {ph : BitVec 3} (h : (Instr.decEos ph).wf = true) :
    decodeDStep .eos (ph.setWidth 8) = .ok (.decEos ph) := by
  revert ph
  decide

theorem decodeDStep_fault {ph : BitVec 3} {c : Cause} (h : (Instr.decFault ph c).wf = true) :
    decodeDStep (.fault c) (ph.setWidth 8) = .ok (.decFault ph c) := by
  obtain rfl | rfl | rfl | rfl | rfl := decCode_cases (of_decide_eq_true h)
  all_goals rfl

theorem decodeEStep_fault {ph : BitVec 3} {c : Cause} (h : (Instr.encFault ph c).wf = true) :
    decodeEStep (.fault c) (ph.setWidth 8) = .ok (.encFault ph c) := by
  obtain rfl | rfl | rfl | rfl | rfl | rfl := encCode_cases (of_decide_eq_true h)
  all_goals rfl

/-- A PHASE code is one of eight. -/
theorem eq_ofNat_of_lt_eight {b : Byte} (h : ¬ 8 ≤ b.toNat) : ∃ n < 8, b = BitVec.ofNat 8 n :=
  ⟨b.toNat, Nat.lt_of_not_le h, by simp⟩

theorem decodeDStep_eq_ok {ev : DecEvent} {b : Byte} {i : Instr} (h : decodeDStep ev b = .ok i) :
    i.table = .dstep ev ∧ i.wf = true ∧ encode i = [b] := by
  by_cases hb : 8 ≤ b.toNat
  · cases (if_pos hb).symm.trans h
  obtain ⟨n, hn, rfl⟩ := eq_ofNat_of_lt_eight hb
  interval_cases n <;> cases ev <;> cases h <;> exact ⟨rfl, rfl, rfl⟩

theorem decodeEStep_eq_ok {ev : EncEvent} {b : Byte} {i : Instr} (h : decodeEStep ev b = .ok i) :
    i.table = .estep ev ∧ i.wf = true ∧ encode i = [b] := by
  by_cases hb : 8 ≤ b.toNat
  · cases (if_pos hb).symm.trans h
  obtain ⟨n, hn, rfl⟩ := eq_ofNat_of_lt_eight hb
  interval_cases n <;> cases ev <;> cases h <;> exact ⟨rfl, rfl, rfl⟩

/-! ### Commands and sub-operations -/

theorem decodeStartWire_eq_ok {i j : Instr} {b : Byte} (h : decodeStartWire i b = .ok j) : b = 1#8 ∧ i = j := by
  unfold decodeStartWire at h
  split_ifs at h with hb
  exact ⟨hb, Except.ok.inj h⟩

theorem decodeSub_eq_ok {row : SubRow} {b1 : Byte} {i : Instr} (h : decodeSub row b1 = .ok i) :
    i.table = .sub row ∧ i.wf = true ∧ encode i = [b1] := by
  have word {m : Bool} {l7 : BitVec 7} (hm : maskOf b1 = m) (hl : length7Of b1 = l7) : [secondByte m l7] = [b1] := by
    rw [← hm, ← hl, secondByte_of_fields]
  cases row with
  | lenChk | lenTier => cases h; exact ⟨rfl, rfl, word rfl rfl⟩
  | lenD7 | lenE7 =>
    simp only [decodeSub] at h
    split_ifs at h with hl
    cases h
    exact ⟨rfl, decide_eq_true hl, word rfl rfl⟩
  | lenD16 | lenD64 | lenE16 | lenE64 =>
    simp only [decodeSub] at h
    split_ifs at h with hl
    cases h
    exact ⟨rfl, rfl, word rfl hl⟩
  | maskKey side | maskXor side =>
    simp only [decodeSub] at h
    split_ifs at h with hm
    cases h
    exact ⟨rfl, rfl, word hm rfl⟩
  | maskPass side =>
    simp only [decodeSub] at h
    split_ifs at h with hm
    cases h
    exact ⟨rfl, rfl, word (by simpa using hm) rfl⟩

/-! ### The round trip -/

theorem decodeIn_encode {i : Instr} (hi : i.wf = true) (rest : List Byte) : decodeIn i.table (encode i ++ rest) = .ok (i, rest) := by
  cases i with
  | decode | encode p => rfl
  | hdrS side f l7 =>
    exact (decodeHdr_word side f false l7 rest).trans (by rw [headerRow_of_le_125 _ _ _ (of_decide_eq_true hi)]; rfl)
  | hdrSM side f l7 =>
    exact (decodeHdr_word side f true l7 rest).trans (by rw [headerRow_of_le_125 _ _ _ (of_decide_eq_true hi)]; rfl)
  | hdrE16 side f => exact decodeHdr_word side f false 126#7 rest
  | hdrE16M side f => exact decodeHdr_word side f true 126#7 rest
  | hdrE64 side f => exact decodeHdr_word side f false 127#7 rest
  | hdrE64M side f => exact decodeHdr_word side f true 127#7 rest
  | opCont side fin rsv b1 | opText side fin rsv b1 | opBin side fin rsv b1 | opRsvd3 side fin rsv b1 | opRsvd4 side fin rsv b1
  | opRsvd5 side fin rsv b1 | opRsvd6 side fin rsv b1 | opRsvd7 side fin rsv b1 | opClose side fin rsv b1 | opPing side fin rsv b1
  | opPong side fin rsv b1 | opRsvd11 side fin rsv b1 | opRsvd12 side fin rsv b1 | opRsvd13 side fin rsv b1 | opRsvd14 side fin rsv b1
  | opRsvd15 side fin rsv b1 => exact decodeOpc_word _ side fin rsv b1 rest
  | decStart | decHdr0 v | decHdr1 v | decExt v | decKey v | decPay v => rfl
  | decEos ph => exact decodeByteWith_cons (decodeDStep_eos hi) rest
  | decFault ph c => exact decodeByteWith_cons (decodeDStep_fault hi) rest
  | encStart p | encHdr0 | encHdr1 | encExt | encKey | encPay | encFlush => rfl
  | encFault ph c => exact decodeByteWith_cons (decodeEStep_fault hi) rest
  | lenD7 m l7 | lenE7 m l7 =>
    refine decodeByteWith_cons ?_ rest
    simp only [decodeSub, maskOf_secondByte, length7Of_secondByte, if_pos (of_decide_eq_true hi)]
  | lenChk m l7 =>
    exact decodeByteWith_cons (f := decodeSub .lenChk) (by simp only [decodeSub, maskOf_secondByte, length7Of_secondByte]) rest
  | lenTier m l7 =>
    exact decodeByteWith_cons (f := decodeSub .lenTier) (by simp only [decodeSub, maskOf_secondByte, length7Of_secondByte]) rest
  | lenD16 m | lenD64 m | lenE16 m | lenE64 m | maskKey side l7 | maskXor side l7 | maskPass side l7 =>
    refine decodeByteWith_cons ?_ rest
    simp [decodeSub, maskOf_secondByte, length7Of_secondByte]

theorem encode_of_decodeIn {t : Table} {bs rest : List Byte} {i : Instr} (h : decodeIn t bs = .ok (i, rest)) :
    i.table = t ∧ i.wf = true ∧ encode i ++ rest = bs := by
  have word {b : Byte} {u : Table} (hb : i.table = u ∧ i.wf = true ∧ encode i = [b]) :
      i.table = u ∧ i.wf = true ∧ encode i ++ rest = b :: rest := by
    obtain ⟨htable, hwf, hword⟩ := hb
    exact ⟨htable, hwf, by rw [hword]; rfl⟩
  cases t with
  | cmdDec | cmdEnc p =>
    obtain ⟨b, rfl, hb⟩ := decodeByteWith_eq_ok h
    obtain ⟨rfl, rfl⟩ := decodeStartWire_eq_ok hb
    exact ⟨rfl, rfl, rfl⟩
  | hdr side =>
    obtain ⟨b0, b1, rfl, rfl⟩ := decodePairWith_eq_ok h
    obtain ⟨htable, hwf, hword⟩ := headerRow_word side (FirstByte.ofByte b0) (maskOf b1) (length7Of b1)
    rw [decodeHdr_eq_headerRow, hword, FirstByte.toByte_ofByte, secondByte_of_fields]
    exact ⟨htable, hwf, rfl⟩
  | opc side =>
    obtain ⟨b0, b1, rfl, rfl⟩ := decodePairWith_eq_ok h
    obtain ⟨htable, hwf, hword⟩ :=
      opcodeRow_word (FirstByte.ofByte b0).opc side (FirstByte.ofByte b0).fin (FirstByte.ofByte b0).rsv b1
    rw [decodeOpc, hword]
    exact ⟨htable, hwf, by rw [FirstByte.toByte_ofByte]; rfl⟩
  | dstep ev =>
    obtain ⟨b, rfl, hb⟩ := decodeByteWith_eq_ok h
    exact word (decodeDStep_eq_ok hb)
  | estep ev =>
    obtain ⟨b, rfl, hb⟩ := decodeByteWith_eq_ok h
    exact word (decodeEStep_eq_ok hb)
  | sub row =>
    obtain ⟨b, rfl, hb⟩ := decodeByteWith_eq_ok h
    exact word (decodeSub_eq_ok hb)

/-- Settles O55: the two directions, table by table. -/
theorem decodeEncodeRoundTrip : Obligations.DecodeEncodeRoundTrip := by
  unfold Obligations.DecodeEncodeRoundTrip
  exact ⟨fun _ rest hi => decodeIn_encode hi rest, fun _ _ _ _ h => encode_of_decodeIn h⟩

/-! ### The header forms as masks and matches (R94) -/

/-- A mask of the low byte of b0 ++ b1 is that mask of b1. -/
theorem and_setWidth_eq (w : BitVec 16) (mask : Byte) :
    w &&& mask.setWidth 16 = (w.extractLsb' 0 8 &&& mask).setWidth 16 := by
  ext i hi
  by_cases h8 : i < 8
  · simp [h8, BitVec.getLsbD_eq_getElem hi]
  · simp [h8, BitVec.getLsbD_of_ge mask i (Nat.le_of_not_lt h8)]

/-- Which form a header row is, by MASK and length7 (R94). -/
theorem headerRow_form (side : Side) (f : FirstByte) (m : Bool) (l7 : BitVec 7) :
    ((∃ g, headerRow side f m l7 = .hdrE16 side g) ↔ m = false ∧ l7 = 126#7) ∧
    ((∃ g, headerRow side f m l7 = .hdrE16M side g) ↔ m = true ∧ l7 = 126#7) ∧
    ((∃ g, headerRow side f m l7 = .hdrE64 side g) ↔ m = false ∧ l7 = 127#7) ∧
    ((∃ g, headerRow side f m l7 = .hdrE64M side g) ↔ m = true ∧ l7 = 127#7) ∧
    ((∃ g k, headerRow side f m l7 = .hdrS side g k) ↔ m = false ∧ l7 ≤ 125#7) ∧
    ((∃ g k, headerRow side f m l7 = .hdrSM side g k) ↔ m = true ∧ l7 ≤ 125#7) := by
  by_cases h126 : l7 = 126#7
  · subst h126
    cases m <;> simp [headerRow]
  by_cases h127 : l7 = 127#7
  · subst h127
    cases m <;> simp [headerRow]
  have h125 := le_125_of_ne h126 h127
  rw [headerRow_of_le_125 side f m h125]
  cases m <;> simp [h125, h126, h127]

/-- The masks and matches of R94 on b1, by MASK and length7. -/
theorem b1_form (b1 : Byte) :
    ((b1 &&& 0xFF#8).setWidth 16 = 0x007E#16 ↔ maskOf b1 = false ∧ length7Of b1 = 126#7) ∧
    ((b1 &&& 0xFF#8).setWidth 16 = 0x00FE#16 ↔ maskOf b1 = true ∧ length7Of b1 = 126#7) ∧
    ((b1 &&& 0xFF#8).setWidth 16 = 0x007F#16 ↔ maskOf b1 = false ∧ length7Of b1 = 127#7) ∧
    ((b1 &&& 0xFF#8).setWidth 16 = 0x00FF#16 ↔ maskOf b1 = true ∧ length7Of b1 = 127#7) ∧
    ((b1 &&& 0x80#8).setWidth 16 = 0x0000#16 ∧ ((b1 &&& 0x7F#8).setWidth 16).toNat ≤ 125 ↔
      maskOf b1 = false ∧ length7Of b1 ≤ 125#7) ∧
    ((b1 &&& 0x80#8).setWidth 16 = 0x0080#16 ∧ ((b1 &&& 0x7F#8).setWidth 16).toNat ≤ 125 ↔
      maskOf b1 = true ∧ length7Of b1 ≤ 125#7) := by
  revert b1
  decide

/-- Settles O56: the masks look at b1 alone, and MASK and length7 of b1 name the row. -/
theorem headerFormsPartitionWords : Obligations.HeaderFormsPartitionWords := by
  unfold Obligations.HeaderFormsPartitionWords
  intro side w
  have hFF : w &&& 0x00FF#16 = _ := and_setWidth_eq w 0xFF#8
  have h80 : w &&& 0x0080#16 = _ := and_setWidth_eq w 0x80#8
  have h7F : w &&& 0x007F#16 = _ := and_setWidth_eq w 0x7F#8
  obtain ⟨m16, m16M, m64, m64M, mS, mSM⟩ := b1_form (w.extractLsb' 0 8)
  obtain ⟨r16, r16M, r64, r64M, rS, rSM⟩ := headerRow_form side (FirstByte.ofByte (w.extractLsb' 8 8))
    (maskOf (w.extractLsb' 0 8)) (length7Of (w.extractLsb' 0 8))
  refine ⟨_, rfl, ?_⟩
  rw [decodeHdr_eq_headerRow, hFF, h80, h7F]
  exact ⟨m16.trans r16.symm, m16M.trans r16M.symm, m64.trans r64.symm, m64M.trans r64M.symm, mS.trans rS.symm, mSM.trans rSM.symm⟩

/-- Settles O57: each word is read field by field. -/
theorem writtenOutWordsDecode : Obligations.WrittenOutWordsDecode := by
  unfold Obligations.WrittenOutWordsDecode
  exact ⟨rfl, rfl, rfl, rfl, rfl, rfl, rfl, rfl, rfl, rfl, rfl, rfl, rfl⟩

end Sys2Proof
end

section
/-! PROOFS. What one step does (10_state.md R49, R50; 20_memory.md R62, R65, R80; 30_encoding.md R109; 70_reset_and_hazards.md R240,
R241, R254, R255, R263): a reset, an edge, a presented word, the caller's writes. -/

namespace Sys2Proof.Machine

open Sys2Proof.Spec

/-- Settles O2: the edge answers `State.applyReset`, whatever else is presented. -/
theorem resetEdgeAbandonsOperation : Obligations.ResetEdgeAbandonsOperation := by
  unfold Obligations.ResetEdgeAbandonsOperation
  intro s w rest hs hw
  rw [step_of_reset_edge hs hw]
  rfl

/-! ### A presented word (R111, R112) -/

theorem step_of_issue {s : State} {t : Table} {word : List Byte} {rest : List Request} (h : s.agenda = .issue t word :: rest) :
    step s = issueStep t word (s.requestTaken rest) :=
  step_of_agenda_cons h

theorem issueStep_of_ok {t : Table} {word more : List Byte} {i : Instr} (h : decodeIn t word = .ok (i, more)) (s : State) :
    issueStep t word s = exec i s := by
  rw [issueStep, h]

theorem issueStep_of_error {t : Table} {word : List Byte} {e : DecodeError} (h : decodeIn t word = .error e) (s : State) :
    issueStep t word s = .refused (.undecodable e) := by
  rw [issueStep, h]

theorem decodeTableWord_eq_some {nbits w : Nat} {i : Instr} (h : decodeTableWord nbits w = some i) :
    ∃ t more, tableOfWord nbits w = some t ∧ decodeIn t (wordBytes nbits w) = .ok (i, more) := by
  unfold decodeTableWord at h
  split at h
  · cases h
  · split at h
    · obtain rfl := Option.some.inj h
      exact ⟨_, _, ‹_›, ‹_›⟩
    · cases h

theorem decodeTableWord_eq_none {nbits w : Nat} (h : decodeTableWord nbits w = none) :
    tableOfWord nbits w = none ∨ ∃ t e, tableOfWord nbits w = some t ∧ decodeIn t (wordBytes nbits w) = .error e := by
  unfold decodeTableWord at h
  split at h
  · exact .inl ‹_›
  · split at h
    · cases h
    · exact .inr ⟨_, _, ‹_›, ‹_›⟩

/-- Placing a word counts no request. -/
theorem wordContext_tick (t : Table) (w : Nat) (s : State) : (wordContext t w s).tick = s.tick := by
  unfold wordContext
  split
  case h_3 => split <;> rfl
  all_goals rfl

theorem withFetchWord_of_table {nbits w : Nat} {t : Table} (h : tableOfWord nbits w = some t) (s : State) :
    s.withFetchWord nbits w = { wordContext t w s with agenda := .issue t (wordBytes nbits w) :: s.agenda } := by
  rw [State.withFetchWord, presentWord, h]

theorem withFetchWord_of_none {nbits w : Nat} (h : tableOfWord nbits w = none) (s : State) :
    s.withFetchWord nbits w = { s with agenda := .issue .cmdDec [] :: s.agenda } := by
  rw [State.withFetchWord, presentWord, h]

/-- Settles O4: a word stands first in the agenda, presented by its table or placed by `withFetchWord`, and `issueStep` runs it. -/
theorem stepRunsIssuedWord : Obligations.StepRunsIssuedWord := by
  unfold Obligations.StepRunsIssuedWord
  refine ⟨fun s t word rest hs => ⟨fun i more h => ?_, fun e h => ?_⟩, fun s nbits w => ⟨fun i h => ?_, fun h => ?_⟩⟩
  · exact (step_of_issue hs).trans (issueStep_of_ok h _)
  · exact (step_of_issue hs).trans (issueStep_of_error h _)
  · obtain ⟨t, more, htable, hdecode⟩ := decodeTableWord_eq_some h
    rw [withFetchWord_of_table htable, step_of_issue rfl, issueStep_of_ok hdecode, State.requestTaken]
    simp only [wordContext_tick]
  · obtain htable | ⟨t, e, htable, hdecode⟩ := decodeTableWord_eq_none h
    · exact ⟨.tooShort, by rw [withFetchWord_of_none htable]; rfl⟩
    · exact ⟨e, by rw [withFetchWord_of_table htable, step_of_issue rfl, issueStep_of_error hdecode]⟩

/-! ### What the units select at an edge -/

theorem runSelected_of_none {sel : State → Option (Instr × State)} {s : State} (h : sel s = none) : runSelected sel s = .next s := by
  rw [runSelected, h]

theorem runSelected_of_some {sel : State → Option (Instr × State)} {s u : State} {i : Instr} (h : sel s = some (i, u)) :
    runSelected sel s = exec i u := by
  rw [runSelected, h]

@[simp] theorem andThen_next_right (o : Out) : andThen o .next = o := by
  cases o <;> rfl

theorem edgeStep_of_no_rst {w : Edge} (hw : w.rst = false) (s : State) :
    edgeStep w s = andThen (runSelected (decSelect w) s) (runSelected (encSelect w)) := by
  simp [edgeStep, hw]

/-- DEC accepts no start and makes no transfer. -/
theorem decSelect_eq_none {w : Edge} {s : State}
    (h : if s.dec.phase = .idle then w.decStart = false else (w.srcAck = false ∨ s.src.answers = [])) : decSelect w s = none := by
  unfold decSelect
  split_ifs at h ⊢ with hidle hstart hack
  · rw [hstart] at h; cases h
  · rfl
  · rcases h with h | h
    · rw [hack] at h; cases h
    · rw [h]
  · rfl

/-- ENC accepts no start and makes no transfer. -/
theorem encSelect_eq_none {w : Edge} {s : State}
    (h : if s.enc.phase = .idle then w.encStart = false else (w.snkAck = false ∨ s.snk.answers = [])) : encSelect w s = none := by
  unfold encSelect
  split_ifs at h ⊢ with hidle hstart hack
  · rw [hstart] at h; cases h
  · rfl
  · rcases h with h | h
    · rw [hack] at h; cases h
    · rw [h]
  · rfl

/-- Wires that are low ask nothing of DEC, in any state. -/
theorem decSelect_of_low {w : Edge} (hstart : w.decStart = false) (hack : w.srcAck = false) (s : State) : decSelect w s = none :=
  decSelect_eq_none (by split_ifs; exacts [hstart, .inl hack])

theorem encSelect_of_low {w : Edge} (hstart : w.encStart = false) (hack : w.snkAck = false) (s : State) : encSelect w s = none :=
  encSelect_eq_none (by split_ifs; exacts [hstart, .inl hack])

theorem edgeStep_of_dec_alone {w : Edge} (hw : w.rst = false) (hstart : w.encStart = false) (hack : w.snkAck = false) (s : State) :
    edgeStep w s = runSelected (decSelect w) s := by
  rw [edgeStep_of_no_rst hw, show runSelected (encSelect w) = .next from
    funext fun t => runSelected_of_none (encSelect_of_low hstart hack t), andThen_next_right]

theorem edgeStep_of_enc_alone {w : Edge} (hw : w.rst = false) (hstart : w.decStart = false) (hack : w.srcAck = false) (s : State) :
    edgeStep w s = runSelected (encSelect w) s := by
  rw [edgeStep_of_no_rst hw, runSelected_of_none (decSelect_of_low hstart hack s), andThen_next]

/-! ### DEC at an edge (R109) -/

/-- The source after a `Data` answer: one byte further on. -/
theorem State.takeAnswer_of_data {a : SrcAnswer} {v : Byte} (ha : a.meaning = .data v) (s : State) :
    s.takeAnswer a = { s with src := ⟨s.src.answers.tail, s.src.taken + 1⟩ } := by
  rw [State.takeAnswer, ha]

theorem State.takeAnswer_of_eos {a : SrcAnswer} (ha : a.meaning = .eos) (s : State) :
    s.takeAnswer a = { s with src := ⟨s.src.answers.tail, s.src.taken⟩ } := by
  rw [State.takeAnswer, ha]

theorem State.takeAnswer_of_fault {a : SrcAnswer} {c : Cause} (ha : a.meaning = .fault c) (s : State) :
    s.takeAnswer a = { s with src := ⟨s.src.answers.tail, s.src.taken⟩ } := by
  rw [State.takeAnswer, ha]

theorem decSelect_of_start {w : Edge} {s : State} (hidle : s.dec.phase = .idle) (hstart : w.decStart = true) :
    decSelect w s = some (.decStart, s) := by
  rw [decSelect, if_pos hidle, if_pos hstart]

theorem decSelect_of_answer {w : Edge} {s : State} {a : SrcAnswer} {as : List SrcAnswer} {i : Instr} (hack : w.srcAck = true)
    (hsrc : s.src.answers = a :: as) (hi : decInstr s.dec.phase a.meaning = some i) :
    decSelect w s = some (i, s.takeAnswer a) := by
  have hbusy : s.dec.phase ≠ .idle := fun hidle => by rw [hidle] at hi; cases hi
  rw [decSelect, if_neg hbusy, if_pos hack, hsrc]
  simp only [hi]

theorem decInstr_eos {ph : DecPhase} (h : ph ≠ .idle) : decInstr ph .eos = some (.decEos ph.code) := by
  cases ph <;> first | exact absurd rfl h | rfl

theorem decInstr_fault {ph : DecPhase} (h : ph ≠ .idle) (c : Cause) : decInstr ph (.fault c) = some (.decFault ph.code c) := by
  cases ph <;> first | exact absurd rfl h | rfl

/-- Settles O5: with ENC's wires low an edge is DEC's selected row, on the state after the transfer. -/
theorem edgeRunsDecoderStepOfPhase : Obligations.EdgeRunsDecoderStepOfPhase := by
  unfold Obligations.EdgeRunsDecoderStepOfPhase
  intro s w rest hs hw hencStart hsnkAck
  have alone : step s = runSelected (decSelect w) (s.requestTaken rest) :=
    (step_of_edge hs).trans (edgeStep_of_dec_alone hw hencStart hsnkAck _)
  refine ⟨fun hidle hstart => ?_, fun kind v c as hack hsrc hbusy => ?_⟩
  · exact alone.trans (runSelected_of_some (decSelect_of_start (s := s.requestTaken rest) hidle hstart))
  have row {i : Instr} (hi : decInstr s.dec.phase (SrcAnswer.meaning ⟨kind, v, c⟩) = some i) :
      step s = exec i ((s.requestTaken rest).takeAnswer ⟨kind, v, c⟩) := by
    rw [alone, runSelected_of_some (decSelect_of_answer (s := s.requestTaken rest) hack hsrc hi)]
  refine ⟨?_, ?_, ?_⟩
  · rintro rfl
    rw [State.takeAnswer_of_data rfl, State.requestTaken_src, hsrc] at row
    refine ⟨fun h => ?_, fun h => ?_, fun h => ?_, fun h => ?_, fun h => ?_⟩ <;> exact row (by rw [h]; rfl)
  · rintro rfl
    rw [State.takeAnswer_of_eos rfl, State.requestTaken_src, hsrc] at row
    exact row (decInstr_eos hbusy)
  · rintro (rfl | rfl) <;>
    · rw [State.takeAnswer_of_fault rfl, State.requestTaken_src, hsrc] at row
      exact row (decInstr_fault hbusy c)

/-! ### ENC at an edge (R109) -/

theorem encSelect_of_start {w : Edge} {s : State} (hidle : s.enc.phase = .idle) (hstart : w.encStart = true) :
    encSelect w s = some (.encStart w.encPorts, s) := by
  rw [encSelect, if_pos hidle, if_pos hstart]

theorem encSelect_of_answer {w : Edge} {s : State} {a : SnkAnswer} {as : List SnkAnswer} {i : Instr} (hack : w.snkAck = true)
    (hsnk : s.snk.answers = a :: as) (hi : encInstr s.enc.phase a.meaning = some i) :
    encSelect w s = some (i, s.takeReply) := by
  have hbusy : s.enc.phase ≠ .idle := fun hidle => by rw [hidle] at hi; cases hi
  rw [encSelect, if_neg hbusy, if_pos hack, hsnk]
  simp only [hi]

theorem encInstr_fault {ph : EncPhase} (h : ph ≠ .idle) (c : Cause) : encInstr ph (.fault c) = some (.encFault ph.code c) := by
  cases ph <;> first | exact absurd rfl h | rfl

/-- The row that PHASE names for `Ok` is the step that PHASE names. -/
theorem encInstr_ok {s : State} (h : s.enc.phase ≠ .idle) : ∃ i, encInstr s.enc.phase .ok = some i ∧ exec i s = encOkStep s := by
  unfold encOkStep
  cases hphase : s.enc.phase with
  | idle => exact absurd hphase h
  | hdr0 | hdr1 | ext | key | pay | flush => exact ⟨_, rfl, rfl⟩

/-- The byte accepted at `Ok` is the one that `snk_data` shows (R50). -/
theorem encOkStep_accepted {s t : State} (h : encOkStep s = .next t) : t.snk.accepted = s.snk.accepted ++ s.snkData.toList := by
  unfold State.snkData
  cases hphase : s.enc.phase with
  | idle =>
    rw [encOkStep, hphase] at h
    rw [← Host.Outcome.next.inj h]
    exact (List.append_nil _).symm
  | hdr0 => rw [← Host.Outcome.next.inj ((encOkStep_of_hdr0 hphase).symm.trans h)]; rfl
  | hdr1 => rw [← Host.Outcome.next.inj ((encOkStep_of_hdr1 hphase).symm.trans h)]; rfl
  | ext => rw [← Host.Outcome.next.inj ((encOkStep_of_ext hphase).symm.trans h)]; rfl
  | key => rw [← Host.Outcome.next.inj ((encOkStep_of_key hphase).symm.trans h)]; rfl
  | pay =>
    rw [encOkStep, hphase] at h
    obtain ⟨-, hpay⟩ | ⟨hne, -⟩ := whenEnc_eq_next h
    · split_ifs at hpay
      rw [← Host.Outcome.next.inj hpay]
      rfl
    · exact absurd hphase hne
  | flush =>
    rw [← Host.Outcome.next.inj ((encOkStep_of_flush hphase).symm.trans h)]
    exact (List.append_nil _).symm

theorem State.takeReply_snkData (s : State) : s.takeReply.snkData = s.snkData := rfl

/-- At an edge ENC works on from the state that DEC's step leaves, in which ENC, its sink and the caller's buffer are as before. -/
theorem step_of_edge_eq_next {s t : State} {w : Edge} {rest : List Request} (hs : s.agenda = .edge w :: rest) (hw : w.rst = false)
    (ht : step s = .next t) : ∃ u, u.enc = s.enc ∧ u.snk = s.snk ∧ u.encPbuf = s.encPbuf ∧
      runSelected (encSelect w) u = .next t := by
  rw [step_of_edge hs, edgeStep_of_no_rst hw] at ht
  obtain ⟨u, hu, hrun⟩ := andThen_eq_next.mp ht
  have hframe := runSelected_dec_frame hu
  exact ⟨u, by rw [hframe]; rfl, by rw [hframe]; rfl, by rw [hframe]; rfl, hrun⟩

/-- Settles O6: what ENC offers does not depend on DEC, and with DEC's wires low an edge is ENC's selected row. -/
theorem edgeRunsEncoderStepOfPhase : Obligations.EdgeRunsEncoderStepOfPhase := by
  unfold Obligations.EdgeRunsEncoderStepOfPhase
  refine ⟨fun s t w rest hs hw hbusy ht => ?_, fun s w rest hs hw hdecStart hsrcAck => ?_⟩
  · obtain ⟨u, henc, hsnk, hpbuf, hrun⟩ := step_of_edge_eq_next hs hw ht
    refine ⟨fun hquiet => ?_, fun a as hack hanswers hok => ?_⟩
    · have hnone : encSelect w u = none := encSelect_eq_none (by rw [henc, hsnk, if_neg hbusy]; exact hquiet)
      obtain rfl : u = t := Host.Outcome.next.inj ((runSelected_of_none hnone).symm.trans hrun)
      exact ⟨henc, hsnk, State.snkData_congr henc hsnk hpbuf, by rw [henc]⟩
    · obtain ⟨i, hi, hexec⟩ := encInstr_ok (s := u.takeReply) (by rw [State.takeReply_enc, henc]; exact hbusy)
      have hsel : encSelect w u = some (i, u.takeReply) :=
        encSelect_of_answer hack (by rw [hsnk, hanswers]) (by rw [hok]; exact hi)
      rw [runSelected_of_some hsel, hexec] at hrun
      rw [encOkStep_accepted hrun, State.takeReply_snkData, State.snkData_congr henc hsnk hpbuf]
      rw [State.takeReply_snk, hsnk]
  · have alone : step s = runSelected (encSelect w) (s.requestTaken rest) :=
      (step_of_edge hs).trans (edgeStep_of_enc_alone hw hdecStart hsrcAck _)
    refine ⟨fun hidle hstart => ?_, fun kind c as hack hsnk hbusy => ?_⟩
    · exact alone.trans (runSelected_of_some (encSelect_of_start (s := s.requestTaken rest) hidle hstart))
    have row {i : Instr} (hi : encInstr s.enc.phase (SnkAnswer.meaning ⟨kind, c⟩) = some i) :
        step s = exec i { s with agenda := rest, tick := s.tick + 1, snk := { s.snk with answers := as } } := by
      rw [alone, runSelected_of_some (encSelect_of_answer (s := s.requestTaken rest) hack hsnk hi)]
      simp only [State.takeReply, State.requestTaken, hsnk, List.tail_cons]
    refine ⟨?_, ?_⟩
    · rintro rfl
      refine ⟨fun h => ?_, fun h => ?_, fun h => ?_, fun h => ?_, fun h => ?_, fun h => ?_⟩ <;> exact row (by rw [h]; rfl)
    · rintro (rfl | rfl | rfl) <;> exact row (encInstr_fault hbusy c)

/-! ### Both units at an edge (R20, R80) -/

/-- At an edge ENC keeps what its rows keep. -/
theorem EncMoves.selected {R : State → State → Prop} (hR : EncMoves R) (w : Edge) {s s' : State} (h : R s s') :
    Alike R (runSelected (encSelect w) s) (runSelected (encSelect w) s') := by
  unfold runSelected encSelect
  rw [hR.enc_phase h, hR.answers h]
  split_ifs
  · exact hR.start w.encPorts h
  · exact .next h
  · cases s.snk.answers with
    | nil => exact .next h
    | cons a as =>
      cases hi : encInstr s.enc.phase a.meaning with
      | none =>
        simp only [hi]
        exact .next h
      | some i =>
        simp only [hi]
        exact hR.exec_alike (encInstr_unit hi) (hR.takeReply h)
  · exact .next h

/-- The same state with another decoder and another source. -/
def State.withDecSide (d : Dec) (z : Source) (s : State) : State := { s with dec := d, src := z }

/-- ENC's rows do not see DEC or its source. -/
theorem withDecSide_encMoves (d : Dec) (z : Source) : EncMoves (Changed (State.withDecSide d z) fun _ => True) where
  enc_phase := fun ⟨h, _⟩ => by rw [h]; rfl
  enc_masked := fun ⟨h, _⟩ => by rw [h]; rfl
  enc_cnt := fun ⟨h, _⟩ => by rw [h]; rfl
  answers := fun ⟨h, _⟩ => by rw [h]; rfl
  opening := fun ⟨h, _⟩ _ => by rw [h]; exact ⟨rfl, rfl⟩
  second := fun ⟨h, _⟩ _ => by rw [h]; rfl
  takeReply := fun ⟨h, _⟩ => ⟨by rw [h]; rfl, trivial⟩
  start := by
    rintro s _ p ⟨rfl, -⟩
    exact .ite Iff.rfl (fun _ => .ite Iff.rfl (fun _ => .refused _) fun _ => .next ⟨rfl, trivial⟩) fun _ => .next ⟨rfl, trivial⟩
  ok := by
    rintro s _ ⟨rfl, -⟩
    have self : Changed (State.withDecSide d z) (fun _ => True) s (s.withDecSide d z) := ⟨rfl, trivial⟩
    unfold encOkStep
    rw [show (s.withDecSide d z).enc.phase = s.enc.phase from rfl]
    split
    · exact .next self
    · exact .whenEnc self rfl fun _ => .next ⟨rfl, trivial⟩
    · exact .whenEnc self rfl fun _ => .next ⟨rfl, trivial⟩
    · exact .whenEnc self rfl fun _ => .next ⟨rfl, trivial⟩
    · exact .whenEnc self rfl fun _ => .next ⟨rfl, trivial⟩
    · exact .whenEnc self rfl fun _ => .ite Iff.rfl (fun _ => .next ⟨rfl, trivial⟩) fun _ => .fault _
    · exact .whenEnc self rfl fun _ => .next ⟨rfl, trivial⟩
  fail := fun c ⟨h, _⟩ _ => ⟨by rw [h]; rfl, trivial⟩
  tier := by
    rintro s _ m l7 ⟨rfl, -⟩
    exact .guard Iff.rfl fun _ => .next ⟨rfl, trivial⟩

theorem runSelected_enc_frame {w : Edge} {s t : State} (h : runSelected (encSelect w) s = .next t) : EncFrame s t := by
  refine runSelected_keeps (P := EncFrame s) (show EncFrame s s from rfl) (fun i u hsel hexec => ?_) h
  obtain ⟨hi, hu⟩ := encSelect_eq_some hsel
  have hframe := exec_encFrame hi hexec
  obtain rfl | rfl := hu
  · exact hframe
  · rw [EncFrame, hframe]; rfl

/-- Settles O7: DEC's step changes only DEC and its source, which ENC's step does not see. -/
theorem unitsDoNotInterfereAtAnEdge : Obligations.UnitsDoNotInterfereAtAnEdge := by
  unfold Obligations.UnitsDoNotInterfereAtAnEdge
  intro s t1 t2 w hw h1 h2
  have hdec : runSelected (decSelect w) s = .next t1 :=
    (edgeStep_of_dec_alone (w := { w with encStart := false, snkAck := false }) hw rfl rfl s).symm.trans h1
  have henc : runSelected (encSelect w) s = .next t2 :=
    (edgeStep_of_enc_alone (w := { w with decStart := false, srcAck := false }) hw rfl rfl s).symm.trans h2
  have hframe : t1 = s.withDecSide t1.dec t1.src := runSelected_dec_frame hdec
  have halike := (withDecSide_encMoves t1.dec t1.src).selected w (s := s) ⟨rfl, trivial⟩
  calc edgeStep w s = runSelected (encSelect w) t1 := by rw [edgeStep_of_no_rst hw, hdec, andThen_next]
    _ = andThen (.next t2) fun t => .next (t.withDecSide t1.dec t1.src) := by
      rw [← henc, ← andThen_eq_of_alike halike, ← hframe]
    _ = .next { s with dec := t1.dec, src := t1.src, enc := t2.enc, snk := t2.snk } := by
      rw [andThen_next, runSelected_enc_frame henc]
      rfl

/-! ### A quiet step, and a run that is over (R172, R202, R241, R263) -/

theorem State.over_iff (s : State) : s.over = true ↔
    s.dec.phase = .idle ∧ s.enc.phase = .idle ∧ ∀ r ∈ s.agenda, r.presentsStart = false := by
  simp [State.over, and_assoc]

/-- At an edge without a reset at which neither unit accepts a start or makes a transfer nothing changes. -/
theorem edgeStep_of_quiet {w : Edge} {s : State} (hw : w.rst = false)
    (hdec : if s.dec.phase = .idle then w.decStart = false else (w.srcAck = false ∨ s.src.answers = []))
    (henc : if s.enc.phase = .idle then w.encStart = false else (w.snkAck = false ∨ s.snk.answers = [])) :
    edgeStep w s = .next s := by
  rw [edgeStep_of_no_rst hw, runSelected_of_none (decSelect_eq_none hdec), andThen_next,
    runSelected_of_none (encSelect_eq_none henc)]

/-- What a request without a start does while both units are IDLE: a reset, or nothing but a write of the caller. -/
theorem perform_of_idle {r : Request} {s t : State} (hd : s.dec.phase = .idle) (he : s.enc.phase = .idle)
    (hr : r.presentsStart = false) (h : perform r s = .next t) :
    t.agenda = s.agenda ∧ t.src = s.src ∧ t.snk = s.snk ∧
      ((t.dec = s.dec ∧ t.enc = s.enc) ∨ (t.dec = Dec.reset ∧ t.enc = Enc.reset)) := by
  have unchanged (ht : t = s) : t.agenda = s.agenda ∧ t.src = s.src ∧ t.snk = s.snk ∧
      ((t.dec = s.dec ∧ t.enc = s.enc) ∨ (t.dec = Dec.reset ∧ t.enc = Enc.reset)) :=
    ht ▸ ⟨rfl, rfl, rfl, .inl ⟨rfl, rfl⟩⟩
  cases r with
  | edge w =>
    cases hw : w.rst with
    | true =>
      rw [← Host.Outcome.next.inj ((edgeStep_of_rst hw s).symm.trans h)]
      exact ⟨rfl, rfl, by rw [State.applyReset_snk, if_pos he], .inr ⟨rfl, rfl⟩⟩
    | false =>
      obtain ⟨hdec, henc⟩ := Bool.or_eq_false_iff.mp hr
      have hquiet := edgeStep_of_quiet (s := s) hw (by rw [if_pos hd]; exact hdec) (by rw [if_pos he]; exact henc)
      exact unchanged (Host.Outcome.next.inj (hquiet.symm.trans h)).symm
  | issue table word =>
    simp only [Request.presentsStart] at hr
    change issueStep table word s = .next t at h
    unfold issueStep at h
    cases hi : decodeIn table word with
    | ok p =>
      rw [hi] at hr h
      exact unchanged (exec_idle hd he hr h)
    | error e =>
      rw [hi] at h
      cases h
  | callerWrite a v =>
    obtain ⟨-, rfl⟩ := callerWriteStep_eq_next h
    exact ⟨rfl, rfl, rfl, .inl ⟨rfl, rfl⟩⟩
  | callerRead p => exact unchanged (callerReadStep_eq_next h)

/-- Settles O3: an empty agenda, a quiet edge, and each kind of request once the run is over. -/
theorem quietStepChangesNothing : Obligations.QuietStepChangesNothing := by
  unfold Obligations.QuietStepChangesNothing
  refine fun s => ⟨fun hs => by rw [step, hs], fun w rest hs hw hdec henc => ?_, fun t hover ht => ?_⟩
  · exact (step_of_edge hs).trans (edgeStep_of_quiet (s := s.requestTaken rest) hw hdec henc)
  · have ⟨hd, he, hagenda⟩ := s.over_iff.mp hover
    cases hs : s.agenda with
    | nil =>
      rw [step, hs] at ht
      exact Host.Outcome.next.inj ht ▸ ⟨hover, rfl, rfl, .inl ⟨rfl, rfl⟩⟩
    | cons r rest =>
      rw [hs] at hagenda
      rw [step_of_agenda_cons hs] at ht
      obtain ⟨hrest, hsrc, hsnk, hunits⟩ :=
        perform_of_idle (s := s.requestTaken rest) hd he (hagenda r List.mem_cons_self) ht
      refine ⟨t.over_iff.mpr ⟨?_, ?_, fun q hq => hagenda q (List.mem_cons_of_mem r ?_)⟩, hsrc, hsnk, hunits⟩
      · rcases hunits with ⟨hdec, -⟩ | ⟨hdec, -⟩ <;> rw [hdec]
        exacts [hd, rfl]
      · rcases hunits with ⟨-, henc⟩ | ⟨-, henc⟩ <;> rw [henc]
        exacts [he, rfl]
      · rwa [hrest] at hq

/-! ### A start that has no meaning, and the caller (R254, R255) -/

theorem encBegin_of_long {s : State} {p : EncPorts} (h : s.enc.phase = .idle) (hlen : s.maxPayload < p.len) :
    encBegin p s = .refused .encLenAboveMax := by
  rw [encBegin, if_pos h, if_pos hlen]

/-- Settles O49: both forms of the start ask `encBegin`, which refuses the length. -/
theorem encodeAboveBufferIsRefused : Obligations.EncodeAboveBufferIsRefused := by
  unfold Obligations.EncodeAboveBufferIsRefused
  intro s p hidle hlen
  have hrefused := encBegin_of_long hidle (BitVec.lt_def.mpr hlen)
  refine ⟨hrefused, ?_⟩
  calc exec (.encode p) s = andThen (encBegin p s) (encRun EncPhase.busy s.snk.answers) := if_pos hidle
    _ = .refused .encLenAboveMax := by rw [hrefused, andThen_refused]

/-- Settles O51: a cell that does not exist, a cell of the running ENCODE, and any other cell. -/
theorem callerBufferIsHeldDuringEncode : Obligations.CallerBufferIsHeldDuringEncode := by
  unfold Obligations.CallerBufferIsHeldDuringEncode
  intro s a v rest hs
  have hstep : step s = callerWriteStep a v (s.requestTaken rest) := step_of_agenda_cons hs
  rw [hstep, callerWriteStep]
  refine ⟨fun hmax => if_pos hmax, fun n hmax hbusy hlen ha => ?_, fun n hmax hfree => ?_⟩
  · exact (if_neg (Nat.not_le.mpr hmax)).trans (if_pos ⟨hbusy, by rw [State.requestTaken_enc, Enc.lenV_of_some hlen]; exact ha⟩)
  · refine ⟨_, (if_neg (Nat.not_le.mpr hmax)).trans (if_neg ?_), Memory.read_write_same _ _ _,
      fun b hb => Memory.read_write_other _ _ hb, rfl⟩
    rintro ⟨hbusy, ha⟩
    rcases hfree with hidle | ⟨hlen, hn⟩
    · exact hbusy hidle
    · rw [State.requestTaken_enc, Enc.lenV_of_some hlen] at ha
      omega

end Sys2Proof.Machine
end

section
/-! PROOFS. The caller's reads (10_state.md R22, R33, R46, R49, 70_reset_and_hazards.md R253): which ports have a value. -/

namespace Sys2Proof.Machine

/-! ### A read, by whether the port has a value -/

theorem step_of_callerRead {s : State} {p : OutPort} {rest : List Request} (h : s.agenda = .callerRead p :: rest) :
    step s = if s.portHasValue p then .next (s.requestTaken rest) else .fault (.noValueRead p) := by
  rw [step_of_agenda_cons h]
  cases p <;> rfl

/-! ### Filled cells -/

theorem Memory.read_isSome_iff (m : Memory) (a : Nat) : (m.read a).isSome = true ↔ a ∈ m.map Prod.fst := by
  induction m with
  | nil => simp
  | cons c rest ih =>
    obtain ⟨b, x⟩ := c
    rw [Memory.read, List.map_cons, List.mem_cons]
    split_ifs with h
    · simp [h]
    · rw [ih]
      simp [Ne.symm h]

theorem Memory.Filled.read_isSome {m : Memory} {n a : Nat} (h : m.Filled n) (ha : a < n) : (m.read a).isSome = true := by
  rw [Memory.read_isSome_iff, h]
  exact List.mem_range.mpr ha

/-! ### What a result says of the registers (R28, R32, R33, R45, R46) -/

/-- A unit that shows a result is IDLE. -/
theorem Dec.Legal.idle_of_res {max : Len} {d : Dec} (h : d.Legal max) (hres : d.res ≠ .noResult) : d.phase = .idle := by
  by_contra hbusy
  exact hres (h.of_busy hbusy).1

theorem Enc.Legal.idle_of_res {max : Len} {tentative : List Byte} {e : Enc} (h : e.Legal max tentative)
    (hres : e.res ≠ .noResult) : e.phase = .idle := by
  by_contra hbusy
  exact hres (h.sampled hbusy).1

theorem Dec.Legal.of_ok {max : Len} {d : Dec} (h : d.Legal max) (hres : d.res = .ok) :
    d.fin.isSome = true ∧ d.opc.isSome = true ∧
      ∃ n m, d.len = some n ∧ d.masked = some m ∧ d.key.Fits m ∧ d.pbuf.Filled n.toNat := by
  have hidle := h.idle_of_res (by rw [hres]; decide)
  simp only [Dec.Legal, hidle, hres] at h
  obtain ⟨-, hfin, hopc, n, m, hlen, -, hmasked, hkey, hfilled⟩ := h
  exact ⟨hfin, hopc, n, m, hlen, hmasked, hkey, hfilled⟩

theorem Dec.Legal.cause_of_io {max : Len} {d : Dec} (h : d.Legal max) (hres : d.res = .io) : d.cause.isSome = true := by
  have hidle := h.idle_of_res (by rw [hres]; decide)
  simp only [Dec.Legal, hidle, hres] at h
  exact h.1

theorem Enc.Legal.cause_of_io {max : Len} {tentative : List Byte} {e : Enc} (h : e.Legal max tentative) (hres : e.res = .io) :
    e.cause.isSome = true := by
  have hidle := h.idle_of_res (by rw [hres]; decide)
  simp only [Enc.Legal, hidle, hres] at h
  exact h.2

/-- `dec_key` is packed when all four registers hold a value, as the key of the Frame is. -/
theorem KeyRegs.toPort_isSome_eq (k : KeyRegs) : k.toPort.isSome = k.key4.isSome := by
  obtain ⟨_ | _, _ | _, _ | _, _ | _⟩ := k <;> rfl

theorem KeyRegs.Fits.toPort_isSome {k : KeyRegs} (h : k.Fits true) : k.toPort.isSome = true := by
  rw [KeyRegs.toPort_isSome_eq]
  exact h

/-! ### The ports -/

theorem Dec.whenOk_of_ok {α : Type} {d : Dec} (h : d.res = .ok) (r : Option α) : d.whenOk r = r := if_pos h

theorem Dec.whenOk_of_ne {α : Type} {d : Dec} (h : d.res ≠ .ok) (r : Option α) : d.whenOk r = none := if_neg h

/-- The ports of the Frame registers and the buffer. -/
def OutPort.ofFrame : OutPort → Bool
  | .decFin | .decOpcode | .decMasked | .decLen | .decKey | .decPbData _ => true
  | .decBusy | .decRes | .decCause | .encBusy | .encRes | .encCause => false

theorem portHasValue_of_not_ok {s : State} (h : s.dec.res ≠ .ok) {p : OutPort} (hp : p.ofFrame = true) :
    s.portHasValue p = false := by
  cases p with
  | decFin | decOpcode | decMasked | decLen => exact congrArg Option.isSome (Dec.whenOk_of_ne h _)
  | decKey =>
    simp only [State.portHasValue, Dec.keyOut, Dec.whenOk_of_ne h, ite_self]
    rfl
  | decPbData addr =>
    simp only [State.portHasValue, Dec.pbDataOut, Dec.whenOk_of_ne h, ite_self]
    split <;> rfl
  | decBusy | decRes | decCause | encBusy | encRes | encCause => cases hp

section

variable {s : State} (hs : s.Legal) (hres : s.dec.res = .ok)

include hs hres

theorem frame_ports_have_value {p : OutPort} (hp : p ∈ [OutPort.decFin, .decOpcode, .decMasked, .decLen]) :
    s.portHasValue p = true := by
  obtain ⟨hdec, -⟩ := hs
  obtain ⟨hfin, hopc, n, m, hlen, hmasked, -⟩ := hdec.of_ok hres
  simp only [List.mem_cons, List.not_mem_nil, or_false] at hp
  rcases hp with rfl | rfl | rfl | rfl <;>
    simp [State.portHasValue, Dec.finOut, Dec.opcodeOut, Dec.maskedOut, Dec.lenOut, Dec.whenOk_of_ok hres, hfin, hopc, hlen, hmasked]

theorem key_port_has_value_iff : s.portHasValue .decKey = true ↔ s.dec.masked = some true := by
  obtain ⟨hdec, -⟩ := hs
  obtain ⟨-, -, n, m, -, hmasked, hkey, -⟩ := hdec.of_ok hres
  simp only [State.portHasValue, Dec.keyOut, Dec.whenOk_of_ok hres, hmasked]
  cases m with
  | true => simp [hkey.toPort_isSome]
  | false => simp

theorem cell_port_has_value_iff {n : Len} (hlen : s.dec.len = some n) (addr : Len) :
    s.portHasValue (.decPbData addr) = true ↔ addr < n := by
  obtain ⟨hdec, -⟩ := hs
  obtain ⟨-, -, n', m, hlen', -, -, hfilled⟩ := hdec.of_ok hres
  obtain rfl : n' = n := Option.some.inj (hlen'.symm.trans hlen)
  simp only [State.portHasValue, Dec.pbDataOut, Dec.whenOk_of_ok hres, hlen]
  split_ifs with h
  · exact iff_of_true (hfilled.read_isSome (BitVec.lt_def.mp h)) h
  · exact iff_of_false (by simp) h

end

/-- Settles O50: a read asks whether its port has a value, which RES says. -/
theorem callerReadsOnlyValidRegisters : Obligations.CallerReadsOnlyValidRegisters := by
  unfold Obligations.CallerReadsOnlyValidRegisters
  intro s p rest hs
  have hstep := step_of_callerRead hs
  have goes (h : s.portHasValue p = true) : step s = .next { s with agenda := rest, tick := s.tick + 1 } := hstep.trans (if_pos h)
  have faults (h : s.portHasValue p = false) : step s = .fault (.noValueRead p) := hstep.trans (if_neg (by simp [h]))
  refine ⟨fun hres hp => faults (portHasValue_of_not_ok hres ?_), fun hlegal hres => ⟨fun hp => ?_, ?_, ?_⟩, ?_, ?_, ?_, ?_⟩
  · simp only [List.mem_cons, List.not_mem_nil, or_false] at hp
    rcases hp with (rfl | rfl | rfl | rfl | rfl) | ⟨addr, rfl⟩ <;> rfl
  · exact goes (frame_ports_have_value hlegal hres hp)
  · rintro rfl
    rw [hstep]
    simp only [key_port_has_value_iff hlegal hres]
    rfl
  · rintro addr n rfl hlen
    rw [hstep]
    simp only [cell_port_has_value_iff hlegal hres hlen]
    rfl
  · rintro hres rfl
    exact faults (congrArg Option.isSome (if_neg hres))
  · rintro hres rfl
    exact faults (congrArg Option.isSome (if_neg hres))
  · rintro ⟨hdec, henc, -⟩ (⟨rfl, hres⟩ | ⟨rfl, hres⟩)
    · exact goes ((congrArg Option.isSome (if_pos hres)).trans (hdec.cause_of_io hres))
    · exact goes ((congrArg Option.isSome (if_pos hres)).trans (henc.cause_of_io hres))
  · intro hp
    simp only [List.mem_cons, List.not_mem_nil, or_false] at hp
    rcases hp with rfl | rfl | rfl | rfl <;> exact goes rfl

end Sys2Proof.Machine
end

section
/-! PROOFS. The bound on a DECODE (42_decode.md R173): each reading of the pseudocode takes a bounded number of answers, and ends when
the source has that many. -/

namespace Sys2Proof.Machine

/-- With `n` answers to come, a reading ends and takes at most `n` of them. -/
def EndsWithin {α : Type} (n : Nat) (k : List Answer → Read α) : Prop :=
  ∀ as, n ≤ as.length → k as ≠ .waits ∧ as.length ≤ (k as).unread.length + n

theorem EndsWithin.done {α : Type} (a : α) : EndsWithin 0 (Read.done a) :=
  fun _ _ => ⟨by simp, le_rfl⟩

theorem EndsWithin.mono {α : Type} {n m : Nat} {k : List Answer → Read α} (h : EndsWithin n k) (hnm : n ≤ m) : EndsWithin m k := by
  intro as has
  obtain ⟨hends, hleft⟩ := h as (hnm.trans has)
  exact ⟨hends, by omega⟩

theorem EndsWithin.andThen {α β : Type} {n m : Nat} {k : List Answer → Read α} {l : α → List Answer → Read β}
    (hk : EndsWithin n k) (hl : ∀ a, EndsWithin m (l a)) : EndsWithin (n + m) fun as => (k as).andThen l := by
  intro as has
  obtain ⟨hends, hleft⟩ := hk as (by omega)
  change (k as).andThen l ≠ .waits ∧ as.length ≤ ((k as).andThen l).unread.length + (n + m)
  cases h : k as with
  | done a rest =>
    rw [h] at hleft
    change as.length ≤ rest.length + n at hleft
    obtain ⟨hends', hleft'⟩ := hl a rest (by omega)
    rw [Read.done_andThen]
    exact ⟨hends', by omega⟩
  | failed e rest =>
    rw [h] at hleft
    change as.length ≤ rest.length + n at hleft
    change Read.failed e rest ≠ .waits ∧ as.length ≤ rest.length + (n + m)
    exact ⟨by simp, by omega⟩
  | waits => exact absurd h hends

theorem readByte_endsWithin : EndsWithin 1 readByte := by
  intro as has
  match as, has with
  | .data v :: rest, _ => exact ⟨by simp [readByte], le_rfl⟩
  | .eos :: rest, _ => exact ⟨by simp [readByte], le_rfl⟩
  | .fault c :: rest, _ => exact ⟨by simp [readByte], le_rfl⟩

theorem readBytes_endsWithin (n : Nat) : EndsWithin n (readBytes n) := by
  induction n with
  | zero => exact .done []
  | succ n ih =>
    exact (readByte_endsWithin.andThen fun v => ih.andThen (m := 0) fun vs => .done (v :: vs)).mono (by omega)

theorem readLength_endsWithin (l7 : BitVec 7) : EndsWithin 8 (readLength l7) := by
  unfold readLength
  split_ifs
  · exact (EndsWithin.done _).mono (by decide)
  · exact ((readBytes_endsWithin 2).andThen (m := 0) fun bs => .done _).mono (by decide)
  · exact (readBytes_endsWithin 8).andThen (m := 0) fun bs => .done _

theorem readKey_endsWithin (masked : Bool) : EndsWithin 4 (readKey masked) := by
  unfold readKey
  split_ifs
  · exact readByte_endsWithin.andThen (m := 3) fun _ => readByte_endsWithin.andThen (m := 2) fun _ =>
      readByte_endsWithin.andThen (m := 1) fun _ => readByte_endsWithin.andThen (m := 0) fun _ => .done _
  · exact (EndsWithin.done _).mono (by decide)

theorem readPayload_endsWithin (key : Option Key4) (i n : Nat) : EndsWithin n (readPayload key i n) := by
  induction n generalizing i with
  | zero => exact .done []
  | succ n ih =>
    exact (readByte_endsWithin.andThen fun raw => (ih (i + 1)).andThen (m := 0) fun ps =>
      .done (maskWith key i raw :: ps)).mono (by omega)

/-- R173: two opening bytes, at most eight of the length, four of the key, and a payload within the buffer. -/
theorem opDecode_endsWithin (max : Len) : EndsWithin (14 + max.toNat) (opDecode max) := by
  have tail (b0 b1 : Byte) (length : Nat) : EndsWithin (4 + max.toNat) fun as =>
      if max.toNat < length then Read.failed FrameError.lengthOverflow as
      else (readKey (maskOf b1) as).andThen fun key as => (readPayload key 0 length as).andThen fun payload as =>
        .done (⟨(FirstByte.ofByte b0).fin, (FirstByte.ofByte b0).opc, maskOf b1, key, payload⟩ : Frame) as := by
    split_ifs with hover
    · exact fun as _ => ⟨by simp, Nat.le_add_right _ _⟩
    · exact (readKey_endsWithin _).andThen fun key =>
        ((readPayload_endsWithin key 0 length).andThen (m := 0) fun payload => .done _).mono (Nat.le_of_not_lt hover)
  have whole : EndsWithin (1 + (1 + (8 + (4 + max.toNat)))) (opDecode max) :=
    readByte_endsWithin.andThen fun b0 => readByte_endsWithin.andThen fun b1 => (readLength_endsWithin _).andThen (tail b0 b1)
  exact whole.mono (by omega)

/-- A reading that has ended leaves DEC IDLE with a result. -/
theorem Dec.Shows.ended {d : Dec} {r : Read Frame} (h : d.Shows r) (hr : r ≠ .waits) : d.phase = .idle ∧ d.res ≠ .noResult := by
  cases r with
  | done f rest =>
    obtain ⟨hidle, hres, -⟩ := h
    exact ⟨hidle, by rw [hres]; decide⟩
  | failed e rest =>
    obtain ⟨hidle, hres, -⟩ := h
    exact ⟨hidle, by rw [hres]; cases e <;> simp [FrameError.result]⟩
  | waits => exact absurd rfl hr

/-- Settles O47: DECODE ends as its operation does (R168), which ends within the bound. -/
theorem decodeEndsWithinBound : Obligations.DecodeEndsWithinBound := by
  unfold Obligations.DecodeEndsWithinBound
  intro s hidle hanswers
  obtain ⟨t, hexec, hshows, hunread, -⟩ := exec_decode_shows hidle
  obtain ⟨hends, hleft⟩ := opDecode_endsWithin s.maxPayload (s.src.answers.map SrcAnswer.meaning) (by rwa [List.length_map])
  obtain ⟨hphase, hres⟩ := hshows.ended hends
  rw [← hunread, List.length_map, List.length_map] at hleft
  exact ⟨t, hexec, hphase, hres, by omega⟩

end Sys2Proof.Machine
end

section
/-! PROOFS. No step reads a register without a value (10_state.md R22): in a legal state what a unit does is the same whatever the
counts are at which its free values are read. -/

namespace Sys2Proof.Machine

open Sys2Proof.Spec

/-! ### Key registers that a step reads -/

theorem KeyRegs.eq_keyFile {k : KeyRegs} {key : Key4} (h : k.key4 = some key) : k = keyFile key := by
  obtain ⟨_ | _, _ | _, _ | _, _ | _⟩ := k <;> cases h
  rfl

/-- A masked frame's key registers all hold a value. -/
theorem KeyRegs.Fits.exists_get {k : KeyRegs} {m : Bool} (h : k.Fits m) (i : Nat) : ∃ b, m = true → k.get (i % 4) = some b := by
  cases m with
  | false => exact ⟨0#8, nofun⟩
  | true =>
    obtain ⟨key, hkey⟩ := Option.isSome_iff_exists.mp h
    exact ⟨key.at i, fun _ => KeyRegs.eq_keyFile hkey ▸ keyFile_get_mod_four key i⟩

/-! ### The change of both counts -/

/-- The state at another count of requests, and with more ENCODEs abandoned before. -/
def State.recounted (k : Nat) (old : List (List Byte)) (s : State) : State :=
  { s with tick := k, snk := { s.snk with abandoned := old ++ s.snk.abandoned } }

/-- A legal state in which the caller has written every cell. -/
def State.Written (s : State) : Prop :=
  s.Legal ∧ ∀ a, a < s.maxPayload.toNat → (s.encPbuf.read a).isSome = true

section

variable {k : Nat} {old : List (List Byte)}

theorem State.recounted_related {s : State} (hs : s.Written) : Changed (State.recounted k old) State.Written s (s.recounted k old) :=
  ⟨rfl, hs⟩

/-! ### DEC -/

theorem Dec.Legal.takeExt_tick {max : Len} {d : Dec} (h : d.Legal max) (hphase : d.phase = .ext) (tick tick' : Nat) (v : Byte) :
    d.takeExt max tick v = d.takeExt max tick' v := by
  simp only [Dec.Legal, hphase] at h
  obtain ⟨-, -, -, -, -, -, hmasked, n, c, hlen, hcnt, -⟩ := h
  obtain ⟨m, hmasked⟩ := Option.isSome_iff_exists.mp hmasked
  rw [Dec.takeExt_of_values hlen hcnt hmasked, Dec.takeExt_of_values hlen hcnt hmasked]

theorem Dec.Legal.takeKey_tick {max : Len} {d : Dec} (h : d.Legal max) (hphase : d.phase = .key) (tick tick' : Nat) (v : Byte) :
    d.takeKey tick v = d.takeKey tick' v := by
  simp only [Dec.Legal, hphase] at h
  obtain ⟨-, -, -, -, -, -, n, c, hlen, -, hcnt, -⟩ := h
  simp only [Dec.takeKey, Dec.lenV_of_some hlen, Dec.cntV_of_some hcnt]

theorem Dec.Legal.takePay_tick {max : Len} {d : Dec} (h : d.Legal max) (hphase : d.phase = .pay) (tick tick' : Nat) (v : Byte) :
    d.takePay tick v = d.takePay tick' v := by
  simp only [Dec.Legal, hphase] at h
  obtain ⟨-, -, -, -, n, m, i, hlen, -, hmasked, hidx, -, hkey, -⟩ := h
  obtain ⟨b, hb⟩ := hkey.exists_get i.toNat
  rw [Dec.takePay_of_values hlen hidx, Dec.takePay_of_values hlen hidx, Dec.payByte_of_values hidx hmasked hb,
    Dec.payByte_of_values hidx hmasked hb]

theorem decDataStep_recounted {s : State} (hs : s.Legal) (v : Byte) :
    ∃ d, decDataStep v s = .next (s.withDec d) ∧ decDataStep v (s.recounted k old) = .next ((s.recounted k old).withDec d) ∧
      d.Legal s.maxPayload := by
  obtain ⟨d, hstep, hd⟩ := decDataStep_legal hs v
  refine ⟨d, hstep, ?_, hd⟩
  obtain ⟨hdec, -⟩ := hs
  have same {d' : Dec} (h : decDataStep v s = .next (s.withDec d')) : d' = d :=
    congrArg State.dec (Host.Outcome.next.inj (h.symm.trans hstep))
  cases hphase : s.dec.phase with
  | idle =>
    rw [← same (d' := s.dec) (by rw [decDataStep, hphase]; rfl), decDataStep, show (s.recounted k old).dec = s.dec from rfl, hphase]
    rfl
  | hdr0 => rw [← same (decDataStep_of_hdr0 v hphase)]; exact decDataStep_of_hdr0 (s := s.recounted k old) v hphase
  | hdr1 => rw [← same (decDataStep_of_hdr1 v hphase)]; exact decDataStep_of_hdr1 (s := s.recounted k old) v hphase
  | ext =>
    rw [← same (decDataStep_of_ext v hphase), hdec.takeExt_tick hphase s.tick k]
    exact decDataStep_of_ext (s := s.recounted k old) v hphase
  | key =>
    rw [← same (decDataStep_of_key v hphase), hdec.takeKey_tick hphase s.tick k]
    exact decDataStep_of_key (s := s.recounted k old) v hphase
  | pay =>
    have hpay := hdec
    simp only [Dec.Legal, hphase] at hpay
    obtain ⟨-, -, -, -, n, m, i, -, hn, -, hidx, hi, -, -⟩ := hpay
    have hcell : i < s.maxPayload := Nat.lt_of_lt_of_le hi hn
    rw [← same (decDataStep_of_pay v hphase hidx hcell), hdec.takePay_tick hphase s.tick k]
    exact decDataStep_of_pay (s := s.recounted k old) v hphase hidx hcell

theorem State.Written.withDec {s : State} {d : Dec} (hs : s.Written) (hd : d.Legal s.maxPayload) : (s.withDec d).Written :=
  ⟨hs.1.withDec hd, hs.2⟩

theorem recounted_decMoves : DecMoves (Changed (State.recounted k old) State.Written) where
  dec_phase := fun ⟨h, _⟩ => by rw [h]; rfl
  dec_masked := fun ⟨h, _⟩ => by rw [h]; rfl
  dec_cnt := fun ⟨h, _⟩ => by rw [h]; rfl
  answers := fun ⟨h, _⟩ => by rw [h]; rfl
  takeAnswer := fun _ ⟨h, hs⟩ => ⟨by rw [h]; rfl, hs⟩
  bytesGiven := fun _ ⟨h, hs⟩ => ⟨by rw [h]; rfl, hs⟩
  start := fun ⟨h, hs⟩ _ => ⟨by rw [h]; rfl, hs.withDec rfl⟩
  data := by
    rintro s _ v ⟨rfl, hs⟩
    obtain ⟨d, hstep, hstep', hd⟩ := decDataStep_recounted (k := k) (old := old) hs.1 v
    rw [hstep, hstep']
    exact .next ⟨rfl, hs.withDec hd⟩
  fail := by
    rintro s _ e ⟨rfl, hs⟩ hbusy
    have ⟨⟨hdec, _⟩, _⟩ := hs
    have ⟨_, hcause⟩ := hdec.of_busy hbusy
    exact ⟨rfl, hs.withDec (Dec.raise_legal e hcause)⟩
  check := by
    rintro s _ m l7 ⟨rfl, hs⟩
    refine .guard Iff.rfl fun hcomplete => ?_
    simp only [Dec.lengthComplete, DecPhase.busy, Bool.and_eq_true, decide_eq_true_eq] at hcomplete
    obtain ⟨⟨hbusy, hlen⟩, -⟩ := hcomplete
    obtain ⟨n, hlen⟩ := Option.isSome_iff_exists.mp hlen
    have ⟨⟨hdec, _⟩, _⟩ := hs
    have ⟨_, hcause⟩ := hdec.of_busy hbusy
    rw [Dec.lenV_of_some hlen, Dec.lenV_of_some (d := (s.recounted k old).dec) hlen,
      show (s.recounted k old).maxPayload = s.maxPayload from rfl]
    split_ifs
    · exact .next ⟨rfl, hs.withDec (Dec.raise_legal .lengthOverflow hcause)⟩
    · exact .next ⟨rfl, hs⟩

/-! ### ENC -/

theorem State.Written.sampled {s : State} (hs : s.Written) (hbusy : s.enc.phase ≠ .idle) : s.enc.Sampled s.maxPayload :=
  hs.1.2.1.sampled hbusy

section

variable {max : Len} {tentative : List Byte} {e : Enc}

theorem Enc.Sampled.b0_offer (h : e.Sampled max) (offer offer' : Nat) : e.b0 offer = e.b0 offer' := by
  obtain ⟨-, -, hfin, hopc, -⟩ := h
  obtain ⟨fin, hfin⟩ := Option.isSome_iff_exists.mp hfin
  obtain ⟨opc, hopc⟩ := Option.isSome_iff_exists.mp hopc
  rw [Enc.b0_of_values hfin hopc, Enc.b0_of_values hfin hopc]

theorem Enc.Sampled.b1_offer (h : e.Sampled max) (offer offer' : Nat) : e.b1 offer = e.b1 offer' := by
  obtain ⟨-, -, -, -, n, m, hlen, -, hmasked, -⟩ := h
  rw [Enc.b1_of_values hmasked hlen, Enc.b1_of_values hmasked hlen]

theorem Enc.Sampled.lenV_offer (h : e.Sampled max) (offer offer' : Nat) : e.lenV offer = e.lenV offer' := by
  obtain ⟨-, -, -, -, n, m, hlen, -⟩ := h
  rw [Enc.lenV_of_some hlen, Enc.lenV_of_some hlen]

theorem Enc.Sampled.afterB1_offer (h : e.Sampled max) (offer offer' : Nat) : e.afterB1 offer = e.afterB1 offer' := by
  obtain ⟨-, -, -, -, n, m, hlen, -, hmasked, -⟩ := h
  rw [Enc.afterB1_of_values hmasked hlen, Enc.afterB1_of_values hmasked hlen]

theorem Enc.Legal.ext_offer (h : e.Legal max tentative) (hphase : e.phase = .ext) (offer offer' : Nat) :
    e.extOffer offer = e.extOffer offer' ∧ e.afterExt offer = e.afterExt offer' := by
  simp only [Enc.Legal, hphase] at h
  obtain ⟨⟨-, -, -, -, -, m, -, -, hmasked, -⟩, n, c, hlen, -, hcnt, -⟩ := h
  rw [Enc.extOffer_of_values hlen hcnt, Enc.extOffer_of_values hlen hcnt, Enc.afterExt_of_values hlen hcnt hmasked,
    Enc.afterExt_of_values hlen hcnt hmasked]
  exact ⟨rfl, rfl⟩

theorem Enc.Legal.key_offer (h : e.Legal max tentative) (hphase : e.phase = .key) (offer offer' : Nat) :
    e.keyOffer offer = e.keyOffer offer' ∧ e.afterKeyByte offer = e.afterKeyByte offer' := by
  simp only [Enc.Legal, hphase] at h
  obtain ⟨⟨-, -, -, -, n, m, hlen, -, hmasked', hkey⟩, hmasked, c, hcnt, hc1, hc4⟩ := h
  obtain rfl : m = true := Option.some.inj (hmasked'.symm.trans hmasked)
  obtain ⟨b, hb⟩ := hkey.exists_get (4 - c.toNat)
  have hindex : (4 - c.toNat) % 4 = 4 - c.toNat := by
    have := BitVec.le_def.mp hc1
    rw [BitVec.toNat_ofNat] at this
    omega
  rw [hindex] at hb
  rw [Enc.keyOffer_of_values hcnt hc4 (hb rfl), Enc.keyOffer_of_values hcnt hc4 (hb rfl), Enc.afterKeyByte_of_values hlen hcnt,
    Enc.afterKeyByte_of_values hlen hcnt]
  exact ⟨rfl, rfl⟩

theorem Enc.Legal.pay_offer (h : e.Legal max tentative) (hphase : e.phase = .pay) {pbuf : Memory}
    (hpbuf : ∀ a, a < max.toNat → (pbuf.read a).isSome = true) (offer offer' : Nat) :
    e.payOffer pbuf offer = e.payOffer pbuf offer' ∧ e.afterPay offer = e.afterPay offer' := by
  simp only [Enc.Legal, hphase] at h
  obtain ⟨⟨-, -, -, -, n', m, hlen', hn, hmasked, hkey⟩, n, i, hlen, hidx, hi⟩ := h
  obtain rfl : n' = n := Option.some.inj (hlen'.symm.trans hlen)
  obtain ⟨b, hb⟩ := hkey.exists_get i.toNat
  obtain ⟨x, hx⟩ := Option.isSome_iff_exists.mp (hpbuf i.toNat (Nat.lt_of_lt_of_le hi hn))
  rw [Enc.payOffer_of_values hidx hmasked hb, Enc.payOffer_of_values hidx hmasked hb, encCell_of_read hx, encCell_of_read hx,
    Enc.afterPay_of_values hlen hidx, Enc.afterPay_of_values hlen hidx]
  exact ⟨rfl, rfl⟩

end

theorem State.Written.withEnc {s : State} {e : Enc} {z : Sink} (hs : s.Written) (he : e.Legal s.maxPayload z.tentative) :
    State.Written { s with enc := e, snk := z } :=
  ⟨hs.1.withEnc he, hs.2⟩

/-- The step at `Ok` goes on in both states, and comes to the same one but for the counts. -/
theorem encOkStep_recounted {s : State} (hs : s.Written) :
    ∃ t, encOkStep s = .next t ∧ encOkStep (s.recounted k old) = .next (t.recounted k old) := by
  have ⟨⟨_, henc, _⟩, hcells⟩ := hs
  have busy (hbusy : s.enc.phase ≠ .idle) := hs.sampled hbusy
  cases hphase : s.enc.phase with
  | idle => exact ⟨s, by rw [encOkStep, hphase], by rw [encOkStep, show (s.recounted k old).enc = s.enc from rfl, hphase]⟩
  | hdr0 =>
    refine ⟨_, encOkStep_of_hdr0 hphase, (encOkStep_of_hdr0 (s := s.recounted k old) hphase).trans ?_⟩
    rw [(busy (by simp [hphase])).b0_offer s.offerCount (s.recounted k old).offerCount]
    rfl
  | hdr1 =>
    have hsampled := busy (by simp [hphase])
    refine ⟨_, encOkStep_of_hdr1 hphase, (encOkStep_of_hdr1 (s := s.recounted k old) hphase).trans ?_⟩
    rw [hsampled.b1_offer s.offerCount (s.recounted k old).offerCount,
      hsampled.afterB1_offer s.offerCount (s.recounted k old).offerCount]
    rfl
  | ext =>
    obtain ⟨hoffer, hafter⟩ := henc.ext_offer hphase s.offerCount (s.recounted k old).offerCount
    refine ⟨_, encOkStep_of_ext hphase, (encOkStep_of_ext (s := s.recounted k old) hphase).trans ?_⟩
    rw [hoffer, hafter]
    rfl
  | key =>
    obtain ⟨hoffer, hafter⟩ := henc.key_offer hphase s.offerCount (s.recounted k old).offerCount
    refine ⟨_, encOkStep_of_key hphase, (encOkStep_of_key (s := s.recounted k old) hphase).trans ?_⟩
    rw [hoffer, hafter]
    rfl
  | pay =>
    obtain ⟨hoffer, hafter⟩ := henc.pay_offer hphase hcells s.offerCount (s.recounted k old).offerCount
    have hpay := henc
    simp only [Enc.Legal, hphase] at hpay
    obtain ⟨⟨-, -, -, -, n', m, hlen', hn, -, -⟩, n, i, hlen, hidx, hi⟩ := hpay
    obtain rfl : n' = n := Option.some.inj (hlen'.symm.trans hlen)
    have hcell : i < s.maxPayload := Nat.lt_of_lt_of_le hi hn
    refine ⟨_, encOkStep_of_pay hphase hidx hcell, (encOkStep_of_pay (s := s.recounted k old) hphase hidx hcell).trans ?_⟩
    rw [hoffer, hafter]
    rfl
  | flush => exact ⟨_, encOkStep_of_flush hphase, encOkStep_of_flush (s := s.recounted k old) hphase⟩

theorem recounted_encMoves : EncMoves (Changed (State.recounted k old) State.Written) where
  enc_phase := fun ⟨h, _⟩ => by rw [h]; rfl
  enc_masked := fun ⟨h, _⟩ => by rw [h]; rfl
  enc_cnt := fun ⟨h, _⟩ => by rw [h]; rfl
  answers := fun ⟨h, _⟩ => by rw [h]; rfl
  opening := by
    rintro s _ ⟨rfl, hs⟩ hphase
    have hsampled := hs.sampled (by rw [hphase]; decide)
    exact ⟨hsampled.b0_offer _ _, hsampled.b1_offer _ _⟩
  second := by
    rintro s _ ⟨rfl, hs⟩ hphase
    exact (hs.sampled (by rw [hphase]; decide)).b1_offer _ _
  takeReply := fun ⟨h, hs⟩ => ⟨by rw [h]; rfl, hs⟩
  start := by
    rintro s _ p ⟨rfl, hs⟩
    refine .ite Iff.rfl (fun hidle => .ite Iff.rfl (fun _ => .refused _) fun hlen => .next ⟨rfl, ?_⟩) fun _ => .next ⟨rfl, hs⟩
    have ⟨⟨_, henc, _⟩, _⟩ := hs
    have hstarted : (Enc.started p).Legal s.maxPayload s.snk.tentative :=
      henc.tentative_of_idle hidle ▸ Enc.started_legal (BitVec.not_lt.mp hlen)
    exact hs.withEnc hstarted
  ok := by
    rintro s _ ⟨rfl, hs⟩
    obtain ⟨t, hstep, hstep'⟩ := encOkStep_recounted (k := k) (old := old) hs
    obtain ⟨e, z, hlegal, he⟩ := encOkStep_legal hs.1
    rw [hstep, hstep']
    exact .next ⟨rfl, Host.Outcome.next.inj (hlegal.symm.trans hstep) ▸ hs.withEnc he⟩
  fail := by
    rintro s _ c ⟨rfl, hs⟩ _
    refine ⟨?_, hs.withEnc (z := s.snk.abandon) ⟨rfl, rfl⟩⟩
    simp [State.raise, State.recounted, Sink.abandon, List.append_assoc]
  tier := by
    rintro s _ m l7 ⟨rfl, hs⟩
    refine .guard Iff.rfl fun hphase => .next ⟨?_, ?_⟩
    · have hlen := (hs.sampled (by rw [hphase]; decide)).lenV_offer s.offerCount (s.recounted k old).offerCount
      rw [hlen]
      rfl
    · have hsampled := hs.sampled (by rw [hphase]; decide)
      refine hs.withEnc (z := s.snk) ?_
      simp only [Enc.Legal, hphase]
      exact hsampled

end

/-- Settles O54: every move reads registers that hold a value, so both runs of the row go on alike. -/
theorem noStepReadsUnsetRegister : Obligations.NoStepReadsUnsetRegister := by
  unfold Obligations.NoStepReadsUnsetRegister
  intro s i k old hlegal hcells
  have hs : s.Written := ⟨hlegal, hcells⟩
  have halike : Alike (Changed (State.recounted k old) State.Written) (exec i s) (exec i (s.recounted k old)) := by
    cases hi : unitOf i with
    | dec => exact recounted_decMoves.exec_alike hi (State.recounted_related hs)
    | enc => exact recounted_encMoves.exec_alike hi (State.recounted_related hs)
  refine (andThen_eq_of_alike halike).trans ?_
  cases exec i s <;> rfl

end Sys2Proof.Machine
end

section
/-! PROOFS. The opcode (30_encoding.md R100, R101): the sixteen rows differ in what goes to OPC, and nothing else meets it. -/

namespace Sys2Proof.Machine

open Sys2Proof.Spec

/-! ### The rows of the opcode table -/

/-- The row of an opcode value is the opening bytes with that value. -/
theorem exec_opcodeRow (o : BitVec 4) (side : Side) (fin : Bool) (rsv : BitVec 3) (b1 : Byte) (s : State) :
    exec (opcodeRow o side fin rsv b1) s = openingOn side ⟨fin, rsv, o⟩ b1 s := by
  obtain ⟨⟨n, hn⟩⟩ := o
  interval_cases n <;> rfl

/-- DEC after b0: FIN and OPC are held. -/
def Dec.opened (f : FirstByte) (d : Dec) : Dec := { d with fin := some f.fin, opc := some f.opc, phase := .hdr1 }

theorem Dec.takeB0_toByte (f : FirstByte) (d : Dec) : d.takeB0 f.toByte = d.opened f := by
  rw [Dec.takeB0, FirstByte.ofByte_toByte, Dec.opened]

/-- The two opening bytes are the steps HDR0 and HDR1 on them. -/
theorem takeOpening_of_phase {s : State} (h : s.dec.phase = .hdr0) (f : FirstByte) (b1 : Byte) :
    takeOpening f.toByte b1 s = .next ((s.bytesGiven 2).withDec ((s.dec.opened f).takeB1 s.maxPayload b1)) := by
  rw [takeOpening, whenDec_of_phase _ h]
  calc andThen (execDecHdr0 f.toByte (s.bytesGiven 2)) (execDecHdr1 b1)
      = execDecHdr1 b1 ((s.bytesGiven 2).withDec (s.dec.opened f)) := by
        rw [show execDecHdr0 f.toByte (s.bytesGiven 2) = .next ((s.bytesGiven 2).withDec (s.dec.takeB0 f.toByte)) from
          exec_decHdr0_of_phase (s := s.bytesGiven 2) _ h, andThen_next, Dec.takeB0_toByte]
    _ = _ := exec_decHdr1_of_phase (s := (s.bytesGiven 2).withDec (s.dec.opened f)) b1 rfl

theorem exec_opcodeRow_dec {s : State} (h : s.dec.phase = .hdr0) (o : BitVec 4) (fin : Bool) (rsv : BitVec 3) (b1 : Byte) :
    exec (opcodeRow o .dec fin rsv b1) s =
      .next ((s.bytesGiven 2).withDec ((s.dec.opened ⟨fin, rsv, o⟩).takeB1 s.maxPayload b1)) :=
  (exec_opcodeRow o .dec fin rsv b1 s).trans (takeOpening_of_phase h _ b1)

/-- Settles O40: after b0 the row is DEC.HDR1 on b1. -/
theorem opcodeRowsOnDecode : Obligations.OpcodeRowsOnDecode := by
  unfold Obligations.OpcodeRowsOnDecode
  intro s o fin rsv b1 h
  rw [exec_opcodeRow_dec h]
  exact ⟨⟨_, rfl⟩, (exec_decHdr1_of_phase (s := (s.bytesGiven 2).withDec (s.dec.opened ⟨fin, rsv, o⟩)) b1 rfl).symm⟩

/-! ### DEC with another OPC -/

/-- DEC with another opcode where it holds one. -/
def Dec.withOpc (o : BitVec 4) (d : Dec) : Dec := { d with opc := d.opc.map fun _ => o }

section

variable (o : BitVec 4) (max : Len) (tick : Nat) (v : Byte) (d : Dec)

theorem Dec.lengthEnd_withOpc (n : Len) (m : Bool) : lengthEnd max n m (d.withOpc o) = (lengthEnd max n m d).withOpc o := by
  unfold lengthEnd headerEnd
  split_ifs <;> rfl

theorem Dec.takeB1_withOpc : (d.withOpc o).takeB1 max v = (d.takeB1 max v).withOpc o := by
  by_cases h7 : length7Of v ≤ 125#7
  · rw [Dec.takeB1_of_le_125 _ h7, Dec.takeB1_of_le_125 _ h7, ← Dec.lengthEnd_withOpc]
    rfl
  · rw [Dec.takeB1_of_extended _ h7, Dec.takeB1_of_extended _ h7]
    rfl

theorem Dec.takeExt_withOpc : (d.withOpc o).takeExt max tick v = (d.takeExt max tick v).withOpc o := by
  simp only [Dec.takeExt, Dec.afterLen_eq_lengthEnd, apply_ite (Dec.withOpc o), ← Dec.lengthEnd_withOpc]
  rfl

theorem Dec.takeKey_withOpc : (d.withOpc o).takeKey tick v = (d.takeKey tick v).withOpc o := by
  unfold Dec.takeKey Dec.afterKey
  simp only [apply_ite (Dec.withOpc o)]
  rfl

theorem Dec.takePay_withOpc : (d.withOpc o).takePay tick v = (d.takePay tick v).withOpc o := by
  unfold Dec.takePay
  simp only [apply_ite (Dec.withOpc o)]
  rfl

end

/-- The state with another opcode in DEC. -/
def State.withDecOpc (o : BitVec 4) (s : State) : State := s.withDec (s.dec.withOpc o)

/-- After b0 no step reads or writes OPC, and none leads back to b0. -/
theorem decDataStep_withDecOpc {s : State} (h : s.dec.phase ≠ .hdr0) (o : BitVec 4) (v : Byte) :
    Alike (Changed (State.withDecOpc o) fun t => t.dec.phase ≠ .hdr0) (decDataStep v s) (decDataStep v (s.withDecOpc o)) := by
  have self : Changed (State.withDecOpc o) (fun t => t.dec.phase ≠ .hdr0) s (s.withDecOpc o) := ⟨rfl, h⟩
  have goes {d d' : Dec} (hd : d' = d.withOpc o) (hphase : d.phase ≠ .hdr0) :
      Alike (Changed (State.withDecOpc o) fun t => t.dec.phase ≠ .hdr0) (.next (s.withDec d))
        (.next ((s.withDecOpc o).withDec d')) := .next ⟨by rw [hd]; rfl, hphase⟩
  unfold decDataStep
  rw [show (s.withDecOpc o).dec.phase = s.dec.phase from rfl]
  split
  case h_1 => exact .next self
  case h_2 hphase => exact absurd hphase h
  case h_3 hphase =>
    refine .whenDec self rfl fun _ => goes (Dec.takeB1_withOpc ..) ?_
    unfold Dec.takeB1 Dec.afterLen Dec.afterKey
    simp only
    split_ifs <;> simp [Dec.raise, Dec.complete]
  case h_4 hphase =>
    refine .whenDec self rfl fun _ => goes (Dec.takeExt_withOpc ..) ?_
    unfold Dec.takeExt Dec.afterLen Dec.afterKey
    simp only
    split_ifs <;> simp [Dec.raise, Dec.complete, hphase]
  case h_5 hphase =>
    refine .whenDec self rfl fun _ => goes (Dec.takeKey_withOpc ..) ?_
    unfold Dec.takeKey Dec.afterKey
    simp only
    split_ifs <;> simp [Dec.complete, hphase]
  case h_6 hphase =>
    refine .whenDec self rfl fun _ => .ite Iff.rfl (fun _ => goes (Dec.takePay_withOpc ..) ?_) fun _ => .fault _
    unfold Dec.takePay
    simp only
    split_ifs <;> simp [Dec.complete, hphase]

theorem decFailIn_withDecOpc {s : State} (h : s.dec.phase ≠ .hdr0) (o : BitVec 4) (ph : BitVec 3) (e : FrameError) :
    Alike (Changed (State.withDecOpc o) fun t => t.dec.phase ≠ .hdr0) (decFailIn ph e s) (decFailIn ph e (s.withDecOpc o)) :=
  .guard Iff.rfl fun _ => .ite Iff.rfl (fun _ => .next ⟨rfl, by simp [Dec.raise]⟩) fun _ =>
    .ite Iff.rfl (fun _ => .next ⟨rfl, h⟩) fun _ => .refused _

theorem decTransfer_withDecOpc {o : BitVec 4} {s s' : State} (a : SrcAnswer)
    (h : Changed (State.withDecOpc o) (fun t => t.dec.phase ≠ .hdr0) s s') :
    Alike (Changed (State.withDecOpc o) fun t => t.dec.phase ≠ .hdr0) (decTransfer a s) (decTransfer a s') := by
  obtain ⟨rfl, h⟩ := h
  unfold decTransfer
  split
  · exact decDataStep_withDecOpc (s := s.takeAnswer a) h o _
  · exact decFailIn_withDecOpc (s := s.takeAnswer a) h o _ _
  · exact decFailIn_withDecOpc (s := s.takeAnswer a) h o _ _

/-! ### A first byte with another opcode -/

theorem FirstByte.ofByte_withOpcode (o : BitVec 4) (v : Byte) :
    (FirstByte.ofByte (withOpcode o v)).fin = (FirstByte.ofByte v).fin ∧ (FirstByte.ofByte (withOpcode o v)).opc = o := by
  have bits : ∀ i < 4, (withOpcode o v).getLsbD i = o.getLsbD i := by
    intro i hi
    have : (0xF0#8).getLsbD i = false := by interval_cases i <;> rfl
    simp [withOpcode, this]
    omega
  refine ⟨by simp [FirstByte.ofByte, withOpcode], ?_⟩
  ext i hi
  simpa [FirstByte.ofByte, hi] using bits i hi

theorem Dec.takeB0_withOpcode (o : BitVec 4) (v : Byte) (d : Dec) : d.takeB0 (withOpcode o v) = (d.takeB0 v).withOpc o := by
  obtain ⟨hfin, hopc⟩ := FirstByte.ofByte_withOpcode o v
  rw [Dec.takeB0, hfin, hopc]
  rfl

/-- A DECODE whose first answer is a byte: the step on it, then the run over the other answers. -/
theorem exec_decode_of_data {s : State} {v : Byte} {c : Cause} {as : List SrcAnswer} (h : s.dec.phase = .idle)
    (hsrc : s.src.answers = ⟨0#2, v, c⟩ :: as) : exec .decode s =
      decRun DecPhase.busy as { s with src := ⟨as, s.src.taken + 1⟩, dec := Dec.started.takeB0 v } := by
  have hexec : exec .decode s = decRun DecPhase.busy s.src.answers (s.withDec Dec.started) := if_pos h
  have hstep : decTransfer ⟨0#2, v, c⟩ (s.withDec Dec.started) =
      decDataStep v ((s.withDec Dec.started).takeAnswer ⟨0#2, v, c⟩) := rfl
  rw [hexec, hsrc, decRun_cons_of_busy (show DecPhase.hdr0 ≠ .idle by decide), hstep, decDataStep_of_hdr0 v rfl,
    andThen_next, State.takeAnswer_of_data rfl, State.withDec_src, hsrc]
  rfl

/-- The states that two DECODEs reach when their first bytes differ in the opcode. -/
theorem exec_decode_withOpcode {s t : State} {v : Byte} {c : Cause} {as : List SrcAnswer} (o : BitVec 4) (h : s.dec.phase = .idle)
    (hsrc : s.src.answers = ⟨0#2, v, c⟩ :: as) (ht : exec .decode s = .next t) :
    exec .decode { s with src := { s.src with answers := ⟨0#2, withOpcode o v, c⟩ :: as } } = .next (t.withDecOpc o) := by
  rw [exec_decode_of_data h hsrc] at ht
  rw [exec_decode_of_data (s := { s with src := { s.src with answers := ⟨0#2, withOpcode o v, c⟩ :: as } }) h rfl,
    Dec.takeB0_withOpcode]
  have halike := Alike.decRun (R := Changed (State.withDecOpc o) fun t => t.dec.phase ≠ .hdr0) (go := DecPhase.busy)
    (fun ⟨h, _⟩ => by rw [h]; rfl) decTransfer_withDecOpc as
    (s := { s with src := ⟨as, s.src.taken + 1⟩, dec := Dec.started.takeB0 v }) ⟨rfl, by simp [Dec.takeB0]⟩
  rw [ht] at halike
  exact andThen_eq_of_alike halike

/-! ### ENC with another OPC -/

theorem recode_append {bs : List Byte} (o : BitVec 4) (h : bs ≠ []) (cs : List Byte) : recode o (bs ++ cs) = recode o bs ++ cs := by
  cases bs with
  | nil => exact absurd rfl h
  | cons b bs => rfl

@[simp] theorem recode_length (o : BitVec 4) (bs : List Byte) : (recode o bs).length = bs.length := by
  cases bs <;> rfl

/-- What the sink holds of an ENCODE begun at `z`, with another opcode in its first byte. -/
def Sink.recoded (z : Sink) (o : BitVec 4) (k : Sink) : Sink :=
  { k with
    accepted := z.accepted ++ recode o (k.accepted.drop z.accepted.length)
    written := z.written ++ recode o (k.written.drop z.written.length)
    tentative := recode o k.tentative
    abandoned := z.abandoned ++ (k.abandoned.drop z.abandoned.length).map (recode o) }

/-- The state with another opcode in ENC, for an ENCODE begun with the sink `z`. -/
def State.withEncOpc (z : Sink) (o : BitVec 4) (s : State) : State :=
  { s with enc := { s.enc with opc := some o }, snk := z.recoded o s.snk }

/-- The sink while an ENCODE begun at `z` runs: what it has accepted since then is tentative (R197). -/
def Sink.Since (z k : Sink) : Prop :=
  k.accepted = z.accepted ++ k.tentative ∧ k.written = z.written ∧ k.abandoned = z.abandoned

/-- An ENCODE begun at `z` is over, or runs, with a byte accepted exactly after b0. -/
def State.EncodesSince (z : Sink) (s : State) : Prop :=
  s.enc.phase ≠ .idle → z.Since s.snk ∧ (s.snk.tentative = [] ↔ s.enc.phase = .hdr0)

theorem Sink.Since.recoded_eq {z k : Sink} (h : z.Since k) (o : BitVec 4) : z.recoded o k =
    { k with accepted := z.accepted ++ recode o k.tentative, tentative := recode o k.tentative } := by
  obtain ⟨hacc, hwritten, habandoned⟩ := h
  simp [Sink.recoded, hacc, hwritten, habandoned, recode]

theorem Sink.Since.offerCount {z : Sink} {s : State} (h : z.Since s.snk) (o : BitVec 4) :
    (s.withEncOpc z o).offerCount = s.offerCount := by
  obtain ⟨hacc, -, -⟩ := id h
  simp [State.offerCount, State.withEncOpc, h.recoded_eq o, hacc]

section

variable {z : Sink} {o : BitVec 4} {s : State}

/-- A byte after the first one is the same with any opcode. -/
theorem accept_withEncOpc (hz : z.Since s.snk) (hne : s.snk.tentative ≠ []) (v : Byte) {e e' : Enc}
    (he : e' = { e with opc := some o }) (hphase : e.phase ≠ .hdr0) :
    Alike (Changed (State.withEncOpc z o) (State.EncodesSince z)) (.next ((s.accept v).withEnc e))
      (.next (((s.withEncOpc z o).accept v).withEnc e')) := by
  have hz' : z.Since (s.accept v).snk := by
    obtain ⟨hacc, hwritten, habandoned⟩ := hz
    exact ⟨by simp [hacc], hwritten, habandoned⟩
  refine .next ⟨?_, fun _ => ⟨hz', by simp [hphase]⟩⟩
  have hsnk : ((s.withEncOpc z o).accept v).snk = z.recoded o (s.accept v).snk := by
    rw [hz'.recoded_eq]
    simp [State.withEncOpc, hz.recoded_eq, recode_append o hne]
  calc ((s.withEncOpc z o).accept v).withEnc e' = { s with enc := e', snk := ((s.withEncOpc z o).accept v).snk } := rfl
    _ = ((s.accept v).withEnc e).withEncOpc z o := by rw [hsnk, he]; rfl

theorem Enc.b0_withOpcode (e : Enc) (offer : Nat) : Enc.b0 offer { e with opc := some o } = withOpcode o (e.b0 offer) := by
  have bits : ∀ (fin : Bool) (opc o : BitVec 4), bit7 fin ||| o.setWidth 8 = withOpcode o (bit7 fin ||| opc.setWidth 8) := by
    decide
  simp only [Enc.b0, ofBool_shiftLeft_eq_bit7]
  exact bits _ _ _

/-- The first byte accepted is b0, with the other opcode in its low bits. -/
theorem acceptB0_withEncOpc (hz : z.Since s.snk) (hnil : s.snk.tentative = []) :
    Alike (Changed (State.withEncOpc z o) (State.EncodesSince z))
      (.next ((s.accept (s.enc.b0 s.offerCount)).withEnc { s.enc with phase := .hdr1 }))
      (.next (((s.withEncOpc z o).accept ((s.withEncOpc z o).enc.b0 (s.withEncOpc z o).offerCount)).withEnc
        { (s.withEncOpc z o).enc with phase := .hdr1 })) := by
  have hz' : z.Since (s.accept (s.enc.b0 s.offerCount)).snk := by
    obtain ⟨hacc, hwritten, habandoned⟩ := hz
    exact ⟨by simp [hacc], hwritten, habandoned⟩
  refine .next ⟨?_, fun _ => ⟨hz', by simp⟩⟩
  have hb0 : (s.withEncOpc z o).enc.b0 (s.withEncOpc z o).offerCount = withOpcode o (s.enc.b0 s.offerCount) := by
    rw [hz.offerCount]
    exact Enc.b0_withOpcode s.enc s.offerCount
  have hsnk : ((s.withEncOpc z o).accept (withOpcode o (s.enc.b0 s.offerCount))).snk =
      z.recoded o (s.accept (s.enc.b0 s.offerCount)).snk := by
    rw [hz'.recoded_eq]
    simp [State.withEncOpc, hz.recoded_eq, hnil, recode]
  calc _ = { s with enc := { s.enc with opc := some o, phase := .hdr1 },
                    snk := ((s.withEncOpc z o).accept (withOpcode o (s.enc.b0 s.offerCount))).snk } := by rw [hb0]; rfl
    _ = _ := by rw [hsnk]; rfl

end

/-- ENC with another opcode. -/
def Enc.withOpc (o : BitVec 4) (e : Enc) : Enc := { e with opc := some o }

section

variable (o : BitVec 4) (offer : Nat) (e : Enc)

theorem Enc.afterLen_withOpc : (e.withOpc o).afterLen offer = (e.afterLen offer).withOpc o := by
  unfold Enc.afterLen
  simp only [apply_ite (Enc.withOpc o)]
  rfl

theorem Enc.afterB1_withOpc : (e.withOpc o).afterB1 offer = (e.afterB1 offer).withOpc o := by
  unfold Enc.afterB1
  rw [show (e.withOpc o).lenV offer = e.lenV offer from rfl]
  split
  · exact Enc.afterLen_withOpc o offer e
  · rfl
  · rfl

theorem Enc.afterExt_withOpc : (e.withOpc o).afterExt offer = (e.afterExt offer).withOpc o := by
  unfold Enc.afterExt
  simp only [apply_ite (Enc.withOpc o), ← Enc.afterLen_withOpc]
  rfl

theorem Enc.afterKeyByte_withOpc : (e.withOpc o).afterKeyByte offer = (e.afterKeyByte offer).withOpc o := by
  unfold Enc.afterKeyByte
  simp only [apply_ite (Enc.withOpc o)]
  rfl

theorem Enc.afterKey_phase : (e.afterKey offer).phase ≠ .hdr0 := by
  unfold Enc.afterKey
  split_ifs <;> simp

theorem Enc.afterLen_phase : (e.afterLen offer).phase ≠ .hdr0 := by
  unfold Enc.afterLen
  split_ifs
  · simp
  · exact e.afterKey_phase offer

theorem Enc.afterB1_phase : (e.afterB1 offer).phase ≠ .hdr0 := by
  unfold Enc.afterB1
  split
  · exact e.afterLen_phase offer
  · simp
  · simp

theorem Enc.afterExt_phase (h : e.phase ≠ .hdr0) : (e.afterExt offer).phase ≠ .hdr0 := by
  unfold Enc.afterExt
  simp only
  split_ifs
  · exact Enc.afterLen_phase offer _
  · exact h

theorem Enc.afterKeyByte_phase (h : e.phase ≠ .hdr0) : (e.afterKeyByte offer).phase ≠ .hdr0 := by
  unfold Enc.afterKeyByte
  simp only
  split_ifs
  · exact Enc.afterKey_phase offer _
  · exact h

theorem Enc.afterPay_phase : (e.afterPay offer).phase ≠ .hdr0 := by
  unfold Enc.afterPay
  simp only
  split_ifs <;> simp

end

section

variable {z : Sink} {o : BitVec 4} {s : State}

/-- The step at `Ok` meets OPC in b0 only. -/
theorem encOkStep_withEncOpc (hs : s.EncodesSince z) :
    Alike (Changed (State.withEncOpc z o) (State.EncodesSince z)) (encOkStep s) (encOkStep (s.withEncOpc z o)) := by
  have self : Changed (State.withEncOpc z o) (State.EncodesSince z) s (s.withEncOpc z o) := ⟨rfl, hs⟩
  have since {ph : EncPhase} (hphase : s.enc.phase = ph) (hidle : ph ≠ .idle) (hhdr0 : ph ≠ .hdr0) :
      z.Since s.snk ∧ s.snk.tentative ≠ [] := by
    obtain ⟨hz, hnil⟩ := hs (hphase ▸ hidle)
    exact ⟨hz, fun h => hhdr0 (hphase ▸ hnil.mp h)⟩
  have henc : (s.withEncOpc z o).enc = s.enc.withOpc o := rfl
  unfold encOkStep
  rw [show (s.withEncOpc z o).enc.phase = s.enc.phase from rfl]
  split
  case h_1 => exact .next self
  case h_2 hphase =>
    obtain ⟨hz, hnil⟩ := hs (by rw [hphase]; decide)
    exact .whenEnc self rfl fun _ => acceptB0_withEncOpc hz (hnil.mpr hphase)
  case h_3 hphase =>
    obtain ⟨hz, hne⟩ := since hphase (by decide) (by decide)
    refine .whenEnc self rfl fun _ => ?_
    rw [hz.offerCount, henc, Enc.afterB1_withOpc]
    exact accept_withEncOpc hz hne _ rfl (Enc.afterB1_phase _ _)
  case h_4 hphase =>
    obtain ⟨hz, hne⟩ := since hphase (by decide) (by decide)
    refine .whenEnc self rfl fun _ => ?_
    rw [hz.offerCount, henc, Enc.afterExt_withOpc]
    exact accept_withEncOpc hz hne _ rfl (Enc.afterExt_phase _ _ (by rw [hphase]; decide))
  case h_5 hphase =>
    obtain ⟨hz, hne⟩ := since hphase (by decide) (by decide)
    refine .whenEnc self rfl fun _ => ?_
    rw [hz.offerCount, henc, Enc.afterKeyByte_withOpc]
    exact accept_withEncOpc hz hne _ rfl (Enc.afterKeyByte_phase _ _ (by rw [hphase]; decide))
  case h_6 hphase =>
    obtain ⟨hz, hne⟩ := since hphase (by decide) (by decide)
    refine .whenEnc self rfl fun _ => ?_
    rw [hz.offerCount]
    exact .ite Iff.rfl (fun _ => accept_withEncOpc hz hne _ rfl (Enc.afterPay_phase _ _)) fun _ => .fault _
  case h_7 hphase =>
    obtain ⟨hz, hne⟩ := since hphase (by decide) (by decide)
    refine .whenEnc self rfl fun _ => .next ⟨?_, fun hbusy => absurd rfl hbusy⟩
    obtain ⟨hacc, hwritten, habandoned⟩ := hz
    simp [State.withEncOpc, State.commit, State.withEnc, Sink.recoded, hacc, hwritten, habandoned, recode]

/-- A fault abandons the bytes accepted, the first one with the other opcode. -/
theorem execEncFault_withEncOpc (hs : s.EncodesSince z) (ph : BitVec 3) (c : Cause) :
    Alike (Changed (State.withEncOpc z o) (State.EncodesSince z)) (execEncFault ph c s)
      (execEncFault ph c (s.withEncOpc z o)) := by
  refine .guard Iff.rfl fun hph => .ite Iff.rfl (fun hphase => .next ⟨?_, fun hbusy => absurd rfl hbusy⟩) fun _ =>
    .ite Iff.rfl (fun _ => .next ⟨rfl, hs⟩) fun _ => .refused _
  have hbusy : s.enc.phase ≠ .idle := fun hidle => by simp [← hphase, hidle, EncPhase.code] at hph
  obtain ⟨⟨hacc, hwritten, habandoned⟩, -⟩ := hs hbusy
  simp [State.withEncOpc, State.raise, Enc.raise, Sink.abandon, Sink.recoded, hacc, hwritten, habandoned, recode]

theorem encTransfer_withEncOpc {s' : State} (a : SnkAnswer)
    (h : Changed (State.withEncOpc z o) (State.EncodesSince z) s s') :
    Alike (Changed (State.withEncOpc z o) (State.EncodesSince z)) (encTransfer a s) (encTransfer a s') := by
  obtain ⟨rfl, hs⟩ := h
  unfold encTransfer
  split
  · exact encOkStep_withEncOpc (s := s.takeReply) hs
  · exact execEncFault_withEncOpc (s := s.takeReply) hs _ _

end

/-- An accepted start with another opcode, from a sink with no tentative byte. -/
theorem encBegin_withEncOpc {s : State} (hidle : s.enc.phase = .idle) (htentative : s.snk.tentative = []) (p : EncPorts)
    (o : BitVec 4) : Alike (Changed (State.withEncOpc s.snk o) (State.EncodesSince s.snk)) (encBegin p s)
      (encBegin { p with opcode := o } s) := by
  have hz : s.snk.Since s.snk := ⟨by simp [htentative], rfl, rfl⟩
  rw [encBegin, encBegin, if_pos hidle, if_pos hidle]
  refine .ite Iff.rfl (fun _ => .refused _) fun _ => .next ⟨?_, fun _ => ⟨hz, by simp [htentative, Enc.started]⟩⟩
  have hsnk : s.snk.recoded o s.snk = s.snk := by
    rw [hz.recoded_eq, htentative]
    conv_rhs => rw [show s.snk = { s.snk with tentative := [] } by rw [← htentative]]
    simp [recode]
  rw [State.withEncOpc, State.withEnc_snk, hsnk]
  rfl

/-- Settles O42: past OPC and b0 no move of a unit meets the opcode. -/
theorem opcodeIsNeverInterpreted : Obligations.OpcodeIsNeverInterpreted := by
  unfold Obligations.OpcodeIsNeverInterpreted
  refine ⟨fun s t o o' fin rsv b1 h ht => ?_, fun s t o' v c as h hsrc ht => exec_decode_withOpcode o' h hsrc ht,
    fun s t p o' hidle htentative ht => ?_⟩
  · rw [exec_opcodeRow_dec h] at ht ⊢
    rw [← Host.Outcome.next.inj ht, show s.dec.opened ⟨fin, rsv, o'⟩ = (s.dec.opened ⟨fin, rsv, o⟩).withOpc o' from rfl,
      Dec.takeB1_withOpc]
    rfl
  · have halike : Alike (Changed (State.withEncOpc s.snk o') (State.EncodesSince s.snk)) (exec (.encode p) s)
        (exec (.encode { p with opcode := o' }) s) :=
      .ite Iff.rfl (fun _ => (encBegin_withEncOpc hidle htentative p o').andThen fun _ _ =>
        .encRun (fun ⟨h, _⟩ => by rw [h]; rfl) encTransfer_withEncOpc s.snk.answers) fun hbusy => absurd hidle hbusy
    rw [ht] at halike
    exact andThen_eq_of_alike halike

end Sys2Proof.Machine
end

section
/-! PROOFS. Rows of DEC that read several bytes (30_encoding.md R94, 40_length.md R121 to R123, 41_mask.md R141): the exact state
after each way the source can answer. -/

namespace Sys2Proof.Machine

open Sys2Proof.Spec

/-! ### Reading bytes, and the answers left -/

/-- Reading `k` bytes takes `k` answers. -/
theorem readBytes_eq_done {k : Nat} {as rest : List Answer} {bs : List Byte} (h : readBytes k as = .done bs rest) :
    bs.length = k ∧ rest = as.drop k ∧ k ≤ as.length := by
  induction k generalizing as bs with
  | zero => cases h; exact ⟨rfl, rfl, Nat.zero_le _⟩
  | succ k ih =>
    match as, h with
    | .data v :: as, h =>
      change (readBytes k as).andThen _ = _ at h
      cases hk : readBytes k as with
      | done vs rest' =>
        rw [hk] at h
        cases h
        obtain ⟨hlength, hrest, hle⟩ := ih hk
        exact ⟨by rw [List.length_cons, hlength], hrest, Nat.succ_le_succ hle⟩
      | failed e rest' => rw [hk] at h; cases h
      | waits => rw [hk] at h; cases h

/-- A reading that fails has taken an answer. -/
theorem readBytes_eq_failed {k : Nat} {as rest : List Answer} {e : FrameError} (h : readBytes k as = .failed e rest) :
    rest.length < as.length := by
  induction k generalizing as with
  | zero => cases h
  | succ k ih =>
    match as, h with
    | .eos :: as, h => cases h; exact Nat.lt_succ_self _
    | .fault c :: as, h => cases h; exact Nat.lt_succ_self _
    | .data v :: as, h =>
      change (readBytes k as).andThen _ = _ at h
      cases hk : readBytes k as with
      | done vs rest' => rw [hk] at h; cases h
      | failed e' rest' =>
        rw [hk] at h
        cases h
        exact (ih hk).trans (Nat.lt_succ_self _)
      | waits => rw [hk] at h; cases h

/-! ### A phase that takes `k` bytes -/

/-- DEC takes `k` bytes in turn while the run goes on: its registers are `d bs` after the bytes `bs`, and `r e j` when the error `e`
comes after `j` bytes. -/
structure Dec.Takes (max : Len) (go : DecPhase → Bool) (k : Nat) (d : List Byte → Dec) (r : FrameError → Nat → Dec) : Prop where
  busy (bs : List Byte) : bs.length < k → (d bs).phase ≠ .idle ∧ go (d bs).phase = true
  fail (bs : List Byte) (e : FrameError) : bs.length < k → (d bs).raise e = r e bs.length
  step (bs : List Byte) (v : Byte) (s : State) : bs.length < k → s.maxPayload = max → s.dec = d bs →
    decDataStep v s = .next (s.withDec (d (bs ++ [v])))

theorem Dec.Takes.tail {max : Len} {go : DecPhase → Bool} {k : Nat} {d : List Byte → Dec} {r : FrameError → Nat → Dec}
    (h : Dec.Takes max go (k + 1) d r) (v : Byte) : Dec.Takes max go k (fun bs => d (v :: bs)) fun e j => r e (j + 1) where
  busy bs hbs := h.busy (v :: bs) (Nat.succ_lt_succ hbs)
  fail bs e hbs := h.fail (v :: bs) e (Nat.succ_lt_succ hbs)
  step bs w s hbs := h.step (v :: bs) w s (Nat.succ_lt_succ hbs)

/-- How a run that begins with `k` bytes goes on, by what reading them from the source comes to. -/
def runAfter (go : DecPhase → Bool) (s : State) (k : Nat) (d : List Byte → Dec) (r : FrameError → Nat → Dec) :
    Read (List Byte) → Out
  | .done bs _ =>
    decRun go (s.src.answers.drop k) { s with src := ⟨s.src.answers.drop k, s.src.taken + k⟩, dec := d bs }
  | .failed e rest => .next { s with
      src := endedAt s.src 0 (s.src.answers.length - rest.length), dec := r e (s.src.answers.length - rest.length - 1) }
  | .waits => .next { s with
      src := ⟨[], s.src.taken + s.src.answers.length⟩, dec := d (given (s.src.answers.map SrcAnswer.meaning)) }

theorem decRun_of_stop {go : DecPhase → Bool} {s : State} (h : go s.dec.phase = false) (as : List SrcAnswer) :
    decRun go as s = .next s := by
  cases as <;> simp [decRun, h]

theorem decRun_cons_of_go {go : DecPhase → Bool} {s : State} (h : go s.dec.phase = true) (a : SrcAnswer) (as : List SrcAnswer) :
    decRun go (a :: as) s = andThen (decTransfer a s) (decRun go as) :=
  if_pos h

/-- The end or a fault of the source at the first byte. -/
theorem decRun_of_raise {go : DecPhase → Bool} (hidle : go .idle = false) {s : State} {a : SrcAnswer} {as : List SrcAnswer}
    {e : FrameError} (hgo : go s.dec.phase = true) (hsrc : s.src.answers = a :: as)
    (htaken : s.takeAnswer a = { s with src := ⟨s.src.answers.tail, s.src.taken⟩ })
    (hstep : decTransfer a s = .next ((s.takeAnswer a).raise .dec e)) :
    decRun go s.src.answers s = .next { s with src := endedAt s.src 0 1, dec := s.dec.raise e } := by
  have hsource : endedAt s.src 0 1 = ⟨as, s.src.taken⟩ := by rw [endedAt, hsrc]; rfl
  rw [hsource, hsrc, decRun_cons_of_go hgo, hstep, andThen_next, htaken, hsrc]
  exact decRun_of_stop hidle as

/-- The induction over the bytes: a run that begins with `k` bytes is the reading of them. -/
theorem decRun_eq_runAfter {max : Len} {go : DecPhase → Bool} (hidle : go .idle = false) {k : Nat} {d : List Byte → Dec}
    {r : FrameError → Nat → Dec} (h : Dec.Takes max go k d r) {s : State} (hmax : s.maxPayload = max) (hdec : s.dec = d []) :
    decRun go s.src.answers s = runAfter go s k d r (readBytes k (s.src.answers.map SrcAnswer.meaning)) := by
  induction k generalizing s d r with
  | zero =>
    rw [readBytes, runAfter, ← hdec]
    rfl
  | succ k ih =>
    obtain ⟨hbusy, hgo⟩ := h.busy [] (Nat.succ_pos k)
    rw [← hdec] at hbusy hgo
    have hraise (e : FrameError) : s.dec.raise e = r e 0 := hdec ▸ h.fail [] e (Nat.succ_pos k)
    cases hsrc : s.src.answers with
    | nil =>
      change Host.Outcome.next s = .next { s with src := ⟨[], s.src.taken + s.src.answers.length⟩, dec := _ }
      rw [hsrc]
      change _ = Host.Outcome.next { s with src := ⟨[], s.src.taken⟩, dec := d [] }
      rw [← hdec, ← hsrc]
    | cons a as =>
      rw [← hsrc]
      cases ha : a.meaning with
      | eos =>
        rw [decRun_of_raise hidle hgo hsrc (State.takeAnswer_of_eos ha s)
          (by rw [decTransfer, ha]; exact decFailIn_code (s := s.takeAnswer a) _ hbusy), hraise]
        simp [hsrc, ha, readBytes, readByte, Read.andThen, runAfter]
      | fault c =>
        rw [decRun_of_raise hidle hgo hsrc (State.takeAnswer_of_fault ha s)
          (by rw [decTransfer, ha]; exact decFailIn_code (s := s.takeAnswer a) _ hbusy), hraise]
        simp [hsrc, ha, readBytes, readByte, Read.andThen, runAfter]
      | data v =>
        have hstep := h.step [] v (s.takeAnswer a) (Nat.succ_pos k) hmax hdec
        have hrest := ih (h.tail v) (s := (s.takeAnswer a).withDec (d [v])) hmax rfl
        rw [State.takeAnswer_of_data ha] at hstep hrest
        simp only [State.withDec_src, hsrc, List.tail_cons] at hstep hrest
        rw [hsrc, decRun_cons_of_go hgo, decTransfer, ha]
        simp only
        rw [State.takeAnswer_of_data ha, hsrc, List.tail_cons, hstep, andThen_next, List.nil_append, hrest, List.map_cons, ha,
          readBytes, readByte, Read.done_andThen]
        cases hk : readBytes k (as.map SrcAnswer.meaning) with
        | done vs rest => simp [runAfter, hsrc, Read.andThen, State.withDec, Nat.add_assoc, Nat.add_comm 1]
        | failed e rest =>
          have hlt := readBytes_eq_failed hk
          rw [List.length_map] at hlt
          have hcount : as.length + 1 - rest.length = as.length - rest.length + 1 := by omega
          have hbytes : as.length - rest.length - 1 + 1 = as.length - rest.length := by omega
          have htaken : s.src.taken + 1 + (as.length - rest.length - 1) = s.src.taken + (as.length - rest.length) := by omega
          simp [runAfter, hsrc, Read.andThen, State.withDec, endedAt, hcount, hbytes, htaken]
        | waits => simp [runAfter, hsrc, Read.andThen, State.withDec, given, ha, Nat.add_assoc, Nat.add_comm 1]

/-! ### The extended length (R163) -/

theorem decodeFailed_eq (s : State) (e : FrameError) (z : Source) (cnt : Option (BitVec 4)) : decodeFailed s e z cnt =
    { s with src := z, dec := failed e.result { s.dec with cnt := cnt, cause := e.causeAfter s.dec.cause } } := by
  cases e <;> rfl

theorem headerEnd_phase_eq (n : Len) (d : Dec) : (headerEnd n d).phase = .idle ∨ (headerEnd n d).phase = .pay := by
  unfold headerEnd
  split_ifs
  · exact .inl rfl
  · exact .inr rfl

theorem lengthEnd_phase_ne (max n : Len) (m : Bool) (d : Dec) : (lengthEnd max n m d).phase ≠ .ext := by
  unfold lengthEnd
  split_ifs
  · simp [failed]
  · simp
  · rcases headerEnd_phase_eq n d with h | h <;> simp [h]

/-- CNT with bytes left to count is at 1 for the last of them. -/
theorem ofNat_eq_one_iff {k : Nat} (hk : k < 16) : BitVec.ofNat 4 k = 1#4 ↔ k = 1 := by
  rw [← BitVec.toNat_inj, toNat_ofNat_of_lt hk]
  rfl

theorem ofNat_sub_one {k : Nat} (hk : 0 < k) : BitVec.ofNat 4 k - 1#4 = BitVec.ofNat 4 (k - 1) := by
  obtain ⟨k, rfl⟩ := Nat.exists_eq_succ_of_ne_zero hk.ne'
  rw [Nat.succ_eq_add_one, BitVec.ofNat_add, BitVec.add_sub_cancel, Nat.add_sub_cancel]

/-- DEC with the bytes `bs` of `k` extended length bytes taken; with all of them the length is at its end. -/
def Dec.extRegs (max : Len) (m : Bool) (k : Nat) (d : Dec) (bs : List Byte) : Dec :=
  if bs.length < k then
    { d with masked := some m, len := some (BitVec.ofNat 64 (beNat bs)), cnt := left k bs.length, phase := .ext }
  else lengthEnd max (BitVec.ofNat 64 (beNat bs)) m
    { d with masked := some m, len := some (BitVec.ofNat 64 (beNat bs)), cnt := some 0#4 }

/-- DEC when the error `e` comes with `j` of `k` counted bytes taken. -/
def Dec.failRegs (k : Nat) (d : Dec) (e : FrameError) (j : Nat) : Dec :=
  failed e.result { d with cnt := left k j, cause := e.causeAfter d.cause }

theorem Dec.extRegs_takes {go : DecPhase → Bool} (hgo : go .ext = true) (max : Len) (m : Bool) {k : Nat} (hk : k ≤ 8) (d : Dec) :
    Dec.Takes max go k (d.extRegs max m k) (d.failRegs k) where
  busy bs hbs := by
    rw [Dec.extRegs, if_pos hbs]
    exact ⟨by simp, hgo⟩
  fail bs e hbs := by
    rw [Dec.extRegs, if_pos hbs]
    rfl
  step bs v s hbs hmax hdec := by
    rw [Dec.extRegs, if_pos hbs] at hdec
    have hphase : s.dec.phase = .ext := by rw [hdec]
    rw [decDataStep_of_ext v hphase, hmax, hdec, Dec.takeExt_of_values (m := m) rfl rfl rfl, shiftIn_beNat, Dec.extRegs]
    simp only [ofNat_eq_one_iff (show k - bs.length < 16 by omega), List.length_append, List.length_singleton]
    by_cases hlast : k - bs.length = 1
    · rw [if_pos hlast, if_neg (by omega)]
      rfl
    · rw [if_neg hlast, if_pos (by omega), ofNat_sub_one (by omega), left, Nat.sub_sub]

/-! ### The key (R164) -/

theorem keyAfter_nil (k : KeyRegs) : keyAfter [] k = k := rfl

/-- The next key byte goes to the register that `4 - CNT` names. -/
theorem keyAfter_append (k : KeyRegs) {bs : List Byte} (h : bs.length < 4) (v : Byte) :
    (keyAfter bs k).set (keyIndex (BitVec.ofNat 4 (4 - bs.length))) v = keyAfter (bs ++ [v]) k := by
  match bs, h with
  | [], _ => rfl
  | [_], _ => simp [keyAfter, KeyRegs.set, keyIndex]
  | [_, _], _ => simp [keyAfter, KeyRegs.set, keyIndex]
  | [_, _, _], _ => simp [keyAfter, KeyRegs.set, keyIndex]

/-- DEC with the key bytes `bs` taken; with four of them the header is at its end. -/
def Dec.keyRegs (n : Len) (d : Dec) (bs : List Byte) : Dec :=
  if bs.length < 4 then { d with key := keyAfter bs d.key, len := some n, cnt := left 4 bs.length, phase := .key }
  else headerEnd n { d with key := keyAfter bs d.key, len := some n, cnt := some 0#4 }

theorem Dec.keyRegs_takes {go : DecPhase → Bool} (hgo : go .key = true) (max n : Len) (d : Dec) :
    Dec.Takes max go 4 (d.keyRegs n) (d.failRegs 4) where
  busy bs hbs := by
    rw [Dec.keyRegs, if_pos hbs]
    exact ⟨by simp, hgo⟩
  fail bs e hbs := by
    rw [Dec.keyRegs, if_pos hbs]
    rfl
  step bs v s hbs hmax hdec := by
    rw [Dec.keyRegs, if_pos hbs] at hdec
    have hphase : s.dec.phase = .key := by rw [hdec]
    rw [decDataStep_of_key v hphase, hdec, Dec.keyRegs, List.length_append, List.length_singleton]
    by_cases hlast : bs.length = 3
    · have hset := keyAfter_append d.key hbs v
      rw [hlast] at hset
      rw [if_neg (by omega), Dec.takeKey_of_last rfl (by rw [hlast]; rfl), ← hset]
      rfl
    · have hmore : BitVec.ofNat 4 (4 - bs.length) ≠ 1#4 := by
        rw [ne_eq, ofNat_eq_one_iff (by omega)]
        omega
      rw [if_pos (by omega), Dec.takeKey_of_more rfl hmore, keyAfter_append d.key hbs, ofNat_sub_one (by omega), Nat.sub_sub]
      rfl

/-! ### LEN.D (R121 to R123) -/

/-- After b1 the row runs over the extended bytes. -/
theorem takeLength_of_phase {s : State} (h : s.dec.phase = .hdr1) (b1 : Byte) : takeLength b1 s =
    decRun (fun p => decide (p = .ext)) s.src.answers ((s.bytesGiven 1).withDec (s.dec.takeB1 s.maxPayload b1)) := by
  rw [takeLength, whenDec_of_phase _ h]
  exact congrArg (andThen · _) (exec_decHdr1_of_phase (s := s.bytesGiven 1) b1 h)

theorem takeB1_secondByte_of_le_125 (max : Len) (m : Bool) {l7 : BitVec 7} (h : l7 ≤ 125#7) (d : Dec) :
    d.takeB1 max (secondByte m l7) = lengthEnd max (l7.setWidth 64) m { d with masked := some m, len := some (l7.setWidth 64) } := by
  rw [Dec.takeB1_of_le_125 _ (by rwa [length7Of_secondByte]), length7Of_secondByte, maskOf_secondByte]

/-- The number of extended bytes that length7 announces, 126 or 127. -/
theorem takeB1_secondByte_extended (max : Len) (m : Bool) {l7 : BitVec 7} {k : Nat} (h : l7 = 126#7 ∧ k = 2 ∨ l7 = 127#7 ∧ k = 8)
    (d : Dec) : d.takeB1 max (secondByte m l7) = d.extRegs max m k [] := by
  obtain ⟨rfl, rfl⟩ | ⟨rfl, rfl⟩ := h
  all_goals
    rw [Dec.takeB1_of_extended _ (by rw [length7Of_secondByte]; decide), length7Of_secondByte, maskOf_secondByte]
    rfl

/-- Settles O27: length7 is the length, and no byte is left to read. -/
theorem lenD7TakesInlineLength : Obligations.LenD7TakesInlineLength := by
  unfold Obligations.LenD7TakesInlineLength
  intro s m l7 h h7
  have hle : l7 ≤ 125#7 := BitVec.le_def.mpr h7
  have hexec : exec (.lenD7 m l7) s = takeLength (secondByte m l7) s := if_pos hle
  have hstop {n : Len} {d : Dec} : decide ((lengthEnd s.maxPayload n m d).phase = .ext) = false :=
    decide_eq_false (lengthEnd_phase_ne _ _ _ _)
  rw [hexec, takeLength_of_phase h, takeB1_secondByte_of_le_125 _ m hle, decRun_of_stop (by exact hstop)]
  rfl

/-- DEC at the end of the failure is what the statements' `decodeFailed` says. -/
theorem decodeFailed_eq_failRegs (s : State) (e : FrameError) (z : Source) (k j : Nat) :
    decodeFailed s e z (left k j) = { s with src := z, dec := s.dec.failRegs k e j } :=
  decodeFailed_eq s e z (left k j)

theorem length_given_of_waits {k : Nat} {as : List Answer} (h : readBytes k as = .waits) :
    (given as).length = as.length ∧ as.length < k := by
  induction k generalizing as with
  | zero => cases h
  | succ k ih =>
    match as, h with
    | [], _ => exact ⟨rfl, Nat.succ_pos k⟩
    | .data v :: as, h =>
      change (readBytes k as).andThen _ = _ at h
      cases hk : readBytes k as with
      | done vs rest => rw [hk] at h; cases h
      | failed e rest => rw [hk] at h; cases h
      | waits =>
        obtain ⟨hlength, hlt⟩ := ih hk
        exact ⟨congrArg (· + 1) hlength, Nat.succ_lt_succ hlt⟩

theorem readsLength_of_extended {i : Instr} {m : Bool} {l7 : BitVec 7} {k : Nat} (hi : exec i = takeLength (secondByte m l7))
    (hk : l7 = 126#7 ∧ k = 2 ∨ l7 = 127#7 ∧ k = 8) : ReadsLength i m k := by
  intro s h
  simp only
  have hk8 : k ≤ 8 := by omega
  rw [hi, takeLength_of_phase h, takeB1_secondByte_extended _ m hk]
  refine (decRun_eq_runAfter (by decide) (Dec.extRegs_takes (by decide) s.maxPayload m hk8 s.dec)
    (s := (s.bytesGiven 1).withDec (s.dec.extRegs s.maxPayload m k [])) rfl rfl).trans ?_
  simp only [State.withDec_src, State.bytesGiven_src, List.length_map]
  cases hread : readBytes k (s.src.answers.map SrcAnswer.meaning) with
  | done bs rest =>
    obtain ⟨hlength, -⟩ := readBytes_eq_done hread
    have hend : s.dec.extRegs s.maxPayload m k bs = lengthEnd s.maxPayload (BitVec.ofNat 64 (beNat bs)) m
        { s.dec with masked := some m, len := some (BitVec.ofNat 64 (beNat bs)), cnt := some 0#4 } := if_neg (by omega)
    rw [runAfter, hend]
    exact decRun_of_stop (decide_eq_false (lengthEnd_phase_ne _ _ _ _)) _
  | failed e rest =>
    simp only [decodeFailed_eq_failRegs]
    rfl
  | waits =>
    obtain ⟨hlength, hlt⟩ := length_given_of_waits hread
    rw [List.length_map] at hlength hlt
    have hwait : s.dec.extRegs s.maxPayload m k (given (s.src.answers.map SrcAnswer.meaning)) = { s.dec with
        masked := some m, len := some (BitVec.ofNat 64 (beNat (given (s.src.answers.map SrcAnswer.meaning)))),
        cnt := left k s.src.answers.length, phase := .ext } := by
      rw [Dec.extRegs, if_pos (by omega), hlength]
    simp only [runAfter, State.withDec_src, State.bytesGiven_src, hwait]
    rfl

/-- Settles O28: the two bytes after b1, as the run over them. -/
theorem lenD16TakesTwoBytes : Obligations.LenD16TakesTwoBytes := by
  unfold Obligations.LenD16TakesTwoBytes
  exact fun m => readsLength_of_extended (l7 := 126#7) rfl (.inl ⟨rfl, rfl⟩)

/-- Settles O29: the eight bytes after b1, as the run over them. -/
theorem lenD64TakesEightBytes : Obligations.LenD64TakesEightBytes := by
  unfold Obligations.LenD64TakesEightBytes
  exact fun m => readsLength_of_extended (l7 := 127#7) rfl (.inr ⟨rfl, rfl⟩)

/-! ### The header's end (R166), and MASK.KEY on decode (R141) -/

/-- What reading the four key bytes comes to, from the registers `d` of a frame of `n` bytes with the source at `z`. -/
def keyOutcome (s : State) (n : Len) (d : Dec) (z : Source) : Read (List Byte) → State
  | .done bs _ => { s with
      src := ⟨z.answers.drop 4, z.taken + 4⟩,
      dec := headerEnd n { d with key := keyAfter bs d.key, len := some n, cnt := some 0#4 } }
  | .failed e rest => { s with
      src := endedAt z 0 (z.answers.length - rest.length), dec := d.failRegs 4 e (z.answers.length - rest.length - 1) }
  | .waits => { s with
      src := ⟨[], z.taken + z.answers.length⟩,
      dec := { d with
        key := keyAfter (given (z.answers.map SrcAnswer.meaning)) d.key, len := some n, cnt := left 4 z.answers.length,
        phase := .key } }

/-- A run at the first key byte takes the key, and stops at the header's end. -/
theorem decRun_key {go : DecPhase → Bool} (hkey : go .key = true) (hidle : go .idle = false) (hpay : go .pay = false) {s : State}
    {n : Len} {d : Dec} (hdec : s.dec = d.keyRegs n []) : decRun go s.src.answers s =
      .next (keyOutcome s n d s.src (readBytes 4 (s.src.answers.map SrcAnswer.meaning))) := by
  refine (decRun_eq_runAfter hidle (Dec.keyRegs_takes hkey s.maxPayload n d) rfl hdec).trans ?_
  cases hread : readBytes 4 (s.src.answers.map SrcAnswer.meaning) with
  | done bs rest =>
    obtain ⟨hlength, -⟩ := readBytes_eq_done hread
    have hend : d.keyRegs n bs = headerEnd n { d with key := keyAfter bs d.key, len := some n, cnt := some 0#4 } :=
      if_neg (by omega)
    rw [runAfter, hend]
    refine decRun_of_stop ?_ _
    rcases headerEnd_phase_eq n { d with key := keyAfter bs d.key, len := some n, cnt := some 0#4 } with h | h <;> simp only [h]
    exacts [hidle, hpay]
  | failed e rest => rfl
  | waits =>
    obtain ⟨hlength, hlt⟩ := length_given_of_waits hread
    rw [List.length_map] at hlength hlt
    rw [runAfter, Dec.keyRegs, if_pos (by omega), hlength]
    rfl

theorem maskKey_dec {s : State} {n : Len} (l7 : BitVec 7) (hphase : s.dec.phase = .key) (hcnt : s.dec.cnt = some 4#4)
    (hlen : s.dec.len = some n) : exec (.maskKey .dec l7) s =
      .next (keyOutcome s n s.dec s.src (readBytes 4 (s.src.answers.map SrcAnswer.meaning))) := by
  have hexec : exec (.maskKey .dec l7) s = decRun (fun p => decide (p = .key)) s.src.answers s := if_pos ⟨hphase, hcnt⟩
  have hregs : s.dec = s.dec.keyRegs n [] := by
    rw [Dec.keyRegs, if_pos (by decide), keyAfter_nil, ← hlen, ← hphase,
      show left 4 ([] : List Byte).length = some 4#4 from rfl, ← hcnt]
  rw [hexec]
  exact decRun_key (by decide) (by decide) (by decide) hregs

/-! ### Headers on decode (R94) -/

theorem exec_headerRow (side : Side) (f : FirstByte) (m : Bool) (l7 : BitVec 7) :
    exec (headerRow side f m l7) = headerOn side f (secondByte m l7) := by
  by_cases h126 : l7 = 126#7
  · subst h126
    cases m <;> rfl
  by_cases h127 : l7 = 127#7
  · subst h127
    cases m <;> rfl
  have h125 := le_125_of_ne h126 h127
  rw [headerRow_of_le_125 side f m h125]
  cases m <;> exact funext fun s => if_pos h125

/-- After the opening bytes the row runs over the extended length and the key. -/
theorem exec_headerRow_dec {s : State} (h : s.dec.phase = .hdr0) (f : FirstByte) (m : Bool) (l7 : BitVec 7) :
    exec (headerRow .dec f m l7) s = decRun DecPhase.inHeaderTail s.src.answers
      ((s.bytesGiven 2).withDec ((s.dec.opened f).takeB1 s.maxPayload (secondByte m l7))) := by
  rw [exec_headerRow, headerOn, takeHeader, whenDec_of_phase _ h, takeOpening_of_phase h, andThen_next]

/-- What the rest of a header comes to once the length `n` is known, from the registers `d` and the source at `z`. -/
def lengthOutcome (s : State) (n : Len) (m : Bool) (d : Dec) (z : Source) : State :=
  if s.maxPayload < n then { s with src := z, dec := failed .lengthOverflow d }
  else if m then keyOutcome s n d z (readBytes 4 (z.answers.map SrcAnswer.meaning))
  else { s with src := z, dec := headerEnd n d }

theorem decRun_lengthEnd {s : State} {n : Len} {m : Bool} {d : Dec} (hlen : d.len = some n)
    (hdec : s.dec = lengthEnd s.maxPayload n m d) :
    decRun DecPhase.inHeaderTail s.src.answers s = .next (lengthOutcome s n m d s.src) := by
  unfold lengthOutcome
  unfold lengthEnd at hdec
  split_ifs at hdec ⊢ with hover hm
  · rw [← hdec]
    exact decRun_of_stop (by rw [hdec]; rfl) _
  · refine decRun_key rfl rfl rfl ?_
    rw [hdec, Dec.keyRegs, if_pos (by decide), keyAfter_nil, ← hlen]
    rfl
  · rw [← hdec]
    refine decRun_of_stop ?_ _
    rcases headerEnd_phase_eq n d with h | h <;> rw [hdec, h] <;> rfl

end Sys2Proof.Machine
end

section
/-! PROOFS. HDR.S to HDR.E64M on decode (30_encoding.md R94, 42_decode.md R151): the rest of a header, as the run over the bytes
of its length and of its key. -/

namespace Sys2Proof.Machine

open Sys2Proof.Spec

/-- The source where reading ended, counted from the answers before the last `x` bytes. -/
theorem endedAt_drop (z : Source) (j x : Nat) {r : Nat} (h : r < (z.answers.drop x).length) :
    endedAt ⟨z.answers.drop x, z.taken + j + x⟩ 0 ((z.answers.drop x).length - r) = endedAt z j (z.answers.length - r) := by
  rw [List.length_drop] at h ⊢
  have hdrop : x + (z.answers.length - x - r) = z.answers.length - r := by omega
  have htaken : z.taken + j + x + (z.answers.length - x - r - 1) = z.taken + j + (z.answers.length - r - 1) := by omega
  rw [endedAt, endedAt, List.drop_drop, hdrop, Nat.add_zero, htaken]

/-- The number of extended length bytes that length7 announces. -/
def extCount (l7 : BitVec 7) : Nat := if l7.toNat ≤ 125 then 0 else if l7.toNat = 126 then 2 else 8

theorem extCount_of_le {l7 : BitVec 7} (h : l7 ≤ 125#7) : extCount l7 = 0 := if_pos (BitVec.le_def.mp h)

theorem readLength_of_extended {l7 : BitVec 7} {k : Nat} (hk : l7 = 126#7 ∧ k = 2 ∨ l7 = 127#7 ∧ k = 8) (as : List Answer) :
    readLength l7 as = (readBytes k as).andThen fun bs as => .done (beNat bs) as := by
  rcases hk with ⟨rfl, rfl⟩ | ⟨rfl, rfl⟩ <;> rfl

theorem extended_of_not_le {l7 : BitVec 7} (h : ¬ l7 ≤ 125#7) :
    ∃ k, extCount l7 = k ∧ k ≤ 8 ∧ (l7 = 126#7 ∧ k = 2 ∨ l7 = 127#7 ∧ k = 8) := by
  by_cases h126 : l7 = 126#7
  · exact ⟨2, by rw [h126]; rfl, by decide, .inl ⟨h126, rfl⟩⟩
  by_cases h127 : l7 = 127#7
  · exact ⟨8, by rw [h127]; rfl, by decide, .inr ⟨h127, rfl⟩⟩
  exact absurd (le_125_of_ne h126 h127) h

/-- The bytes of a length read are taken, and it is below `2 ^ 64`. -/
theorem readLength_eq_done {l7 : BitVec 7} {as rest : List Answer} {n : Nat} (h : readLength l7 as = .done n rest) :
    rest = as.drop (extCount l7) ∧ extCount l7 ≤ as.length ∧ n < 2 ^ 64 := by
  by_cases hle : l7 ≤ 125#7
  · rw [readLength, if_pos hle] at h
    cases h
    exact ⟨by rw [extCount_of_le hle]; rfl, by rw [extCount_of_le hle]; exact Nat.zero_le _, by omega⟩
  · obtain ⟨k, hcount, hk8, hk⟩ := extended_of_not_le hle
    rw [readLength_of_extended hk] at h
    cases hbytes : readBytes k as with
    | done bs rest' =>
      rw [hbytes] at h
      cases h
      obtain ⟨hlength, hrest, hshort⟩ := readBytes_eq_done hbytes
      refine ⟨hcount ▸ hrest, hcount ▸ hshort, (beNat_lt bs).trans_le ?_⟩
      calc 256 ^ bs.length ≤ 256 ^ 8 := Nat.pow_le_pow_right (by decide) (hlength ▸ hk8)
        _ = 2 ^ 64 := rfl
    | failed e rest' => rw [hbytes] at h; cases h
    | waits => rw [hbytes] at h; cases h

/-- DEC with FIN, OPC and MASKED of a header held. -/
def Dec.titled (f : FirstByte) (m : Bool) (d : Dec) : Dec := { d with fin := some f.fin, opc := some f.opc, masked := some m }

/-- What the rest of a header comes to, by the length read after the opening bytes. -/
def tailOutcome (s : State) (f : FirstByte) (m : Bool) (x : Nat) : Read Nat → State
  | .failed e rest => { s with
      src := endedAt s.src 2 (s.src.answers.length - rest.length),
      dec := s.dec.failRegs x e (s.src.answers.length - rest.length - 1) }
  | .waits => { s with
      src := ⟨[], s.src.taken + 2 + s.src.answers.length⟩,
      dec := { s.dec.titled f m with
        len := some (BitVec.ofNat 64 (beNat (given (s.src.answers.map SrcAnswer.meaning)))),
        cnt := left x s.src.answers.length, phase := .ext } }
  | .done n _ => lengthOutcome s (BitVec.ofNat 64 n) m
      { s.dec.titled f m with len := some (BitVec.ofNat 64 n), cnt := if x = 0 then s.dec.cnt else some 0#4 }
      ⟨s.src.answers.drop x, s.src.taken + 2 + x⟩

/-- Neither the phase before the length's end nor the source and DEC before it matter. -/
theorem lengthOutcome_congr (s : State) (n : Len) (m : Bool) (d d' : Dec) (p : DecPhase) (z z' : Source) :
    lengthOutcome { s with src := z', dec := d' } n m { d with phase := p } z = lengthOutcome s n m d z := by
  unfold lengthOutcome
  split_ifs
  · rfl
  · cases readBytes 4 (z.answers.map SrcAnswer.meaning) <;> unfold keyOutcome headerEnd <;> split_ifs <;> rfl
  · unfold headerEnd
    split_ifs <;> rfl

theorem exec_headerRow_extended {s : State} (h : s.dec.phase = .hdr0) (f : FirstByte) (m : Bool) {l7 : BitVec 7} {k : Nat}
    (hk8 : k ≤ 8) (hk : l7 = 126#7 ∧ k = 2 ∨ l7 = 127#7 ∧ k = 8) : exec (headerRow .dec f m l7) s =
      .next (tailOutcome s f m k (readLength l7 (s.src.answers.map SrcAnswer.meaning))) := by
  rw [exec_headerRow_dec h, takeB1_secondByte_extended _ m hk, readLength_of_extended hk]
  refine (decRun_eq_runAfter (by decide) (Dec.extRegs_takes (by decide) s.maxPayload m hk8 (s.dec.opened f))
    (s := (s.bytesGiven 2).withDec _) rfl rfl).trans ?_
  simp only [State.withDec_src, State.bytesGiven_src]
  cases hbytes : readBytes k (s.src.answers.map SrcAnswer.meaning) with
  | done bs rest =>
    obtain ⟨hlength, -⟩ := readBytes_eq_done hbytes
    have hend : (s.dec.opened f).extRegs s.maxPayload m k bs = lengthEnd s.maxPayload (BitVec.ofNat 64 (beNat bs)) m
        { s.dec.opened f with masked := some m, len := some (BitVec.ofNat 64 (beNat bs)), cnt := some 0#4 } := if_neg (by omega)
    have hk0 : k ≠ 0 := by omega
    simp only [runAfter, Read.andThen, tailOutcome, if_neg hk0, hend]
    refine (decRun_lengthEnd (s := { s with
        src := ⟨s.src.answers.drop k, s.src.taken + 2 + k⟩, dec := lengthEnd s.maxPayload (BitVec.ofNat 64 (beNat bs)) m _ })
      (d := { s.dec.opened f with masked := some m, len := some (BitVec.ofNat 64 (beNat bs)), cnt := some 0#4 }) rfl rfl).trans ?_
    exact congrArg _ (lengthOutcome_congr s _ m { s.dec.titled f m with len := _, cnt := _ } _ .hdr1 _ _)
  | failed e rest => rfl
  | waits =>
    obtain ⟨hlength, hlt⟩ := length_given_of_waits hbytes
    rw [List.length_map] at hlength hlt
    have hwait : (s.dec.opened f).extRegs s.maxPayload m k (given (s.src.answers.map SrcAnswer.meaning)) = { s.dec.opened f with
        masked := some m, len := some (BitVec.ofNat 64 (beNat (given (s.src.answers.map SrcAnswer.meaning)))),
        cnt := left k s.src.answers.length, phase := .ext } := by
      rw [Dec.extRegs, if_pos (by omega), hlength]
    simp only [runAfter, State.withDec_src, State.bytesGiven_src, hwait]
    rfl

theorem exec_headerRow_short {s : State} (h : s.dec.phase = .hdr0) (f : FirstByte) (m : Bool) {l7 : BitVec 7}
    (hk : l7 ≤ 125#7) : exec (headerRow .dec f m l7) s =
      .next (tailOutcome s f m 0 (readLength l7 (s.src.answers.map SrcAnswer.meaning))) := by
  have hlen : l7.setWidth 64 = BitVec.ofNat 64 l7.toNat := (BitVec.ofNat_toNat 64 l7).symm
  rw [exec_headerRow_dec h, takeB1_secondByte_of_le_125 _ m hk, readLength, if_pos hk, hlen]
  refine (decRun_lengthEnd (s := (s.bytesGiven 2).withDec _)
    (d := { s.dec.opened f with masked := some m, len := some (BitVec.ofNat 64 l7.toNat) }) rfl rfl).trans ?_
  exact congrArg _ (lengthOutcome_congr s _ m { s.dec.titled f m with len := some (BitVec.ofNat 64 l7.toNat) } _ .hdr1 _ _)

theorem exec_headerRow_eq_tailOutcome {s : State} (h : s.dec.phase = .hdr0) (f : FirstByte) (m : Bool) (l7 : BitVec 7) :
    exec (headerRow .dec f m l7) s =
      .next (tailOutcome s f m (extCount l7) (readLength l7 (s.src.answers.map SrcAnswer.meaning))) := by
  by_cases hle : l7 ≤ 125#7
  · rw [exec_headerRow_short h f m hle, extCount_of_le hle]
  · obtain ⟨k, hcount, hk8, hk⟩ := extended_of_not_le hle
    rw [exec_headerRow_extended h f m hk8 hk, hcount]

/-- Settles O38: the opening bytes, then the run over the length and the key. -/
theorem headerFormsOnDecode : Obligations.HeaderFormsOnDecode := by
  unfold Obligations.HeaderFormsOnDecode
  intro s f m l7 h as x d
  rw [exec_headerRow_eq_tailOutcome h]
  refine congrArg _ ?_
  change tailOutcome s f m x (readLength l7 as) = _
  cases hread : readLength l7 as with
  | failed e rest =>
    simp only [decodeFailed_eq_failRegs, as, List.length_map]
    rfl
  | waits =>
    simp only [as, List.length_map]
    rfl
  | done n rest =>
    obtain ⟨hrest, hx, hn⟩ := readLength_eq_done hread
    replace hrest : rest = (s.src.answers.drop x).map SrcAnswer.meaning := hrest.trans List.map_drop.symm
    have hover : s.maxPayload < BitVec.ofNat 64 n ↔ s.maxPayload.toNat < n := by
      rw [BitVec.lt_def, toNat_ofNat_of_lt hn]
    simp only [tailOutcome, lengthOutcome, hover, decodeFailed_eq]
    by_cases hlt : s.maxPayload.toNat < n
    · rw [if_pos hlt, if_pos hlt]
      rfl
    by_cases hm : m = true
    · rw [if_neg hlt, if_neg hlt, if_pos hm, if_pos hm, hrest]
      replace hx : x ≤ s.src.answers.length := hx.trans_eq (List.length_map _)
      cases hkey : readBytes 4 ((s.src.answers.drop x).map SrcAnswer.meaning) with
      | done bs rest' =>
        simp only [keyOutcome, List.drop_drop]
        rfl
      | failed e rest' =>
        have hlt := (readBytes_eq_failed hkey).trans_eq (List.length_map _)
        simp only [keyOutcome, endedAt_drop _ 2 x hlt, as, List.length_map]
        rfl
      | waits =>
        have htaken : s.src.taken + 2 + x + (s.src.answers.length - x) = s.src.taken + 2 + s.src.answers.length := by omega
        simp only [keyOutcome, List.length_drop, htaken, as, List.length_map]
        rfl
    · rw [if_neg hlt, if_neg hlt, if_neg hm, if_neg hm]
      rfl

end Sys2Proof.Machine
end

section
/-! PROOFS. Rows of ENC that write several bytes (30_encoding.md R94, R101, 40_length.md R127 to R129, 41_mask.md R141): the exact
state after each way the sink can answer. -/

namespace Sys2Proof.Machine

open Sys2Proof.Spec

/-! ### A run over bytes -/

/-- From the registers `r a` on, ENC's run writes the bytes in turn, its registers `r` of the place, and then stops. -/
inductive Enc.Puts (go : EncPhase → Bool) (r : Nat → Enc) : List Byte → Nat → Prop
  | stop {a : Nat} : go (r a).phase = false → Enc.Puts go r [] a
  | byte {a : Nat} {v : Byte} {bs : List Byte} : (r a).phase ≠ .idle → go (r a).phase = true →
      (∀ s : State, s.enc = r a → encOkStep s = .next ((s.accept v).withEnc (r (a + 1)))) → Enc.Puts go r bs (a + 1) →
      Enc.Puts go r (v :: bs) a

/-- What a run over the bytes `bs` from the registers `r a` on comes to. -/
def runWritten (s : State) (bs : List Byte) (r : Nat → Enc) (a : Nat) : Written → State
  | .done _ _ => { s with snk := accepting bs bs.length s.snk, enc := r (a + bs.length) }
  | .failed c acc _ => { s with
      snk := { s.snk with
        answers := s.snk.answers.drop (acc.length + 1), accepted := s.snk.accepted ++ acc, tentative := [],
        abandoned := s.snk.abandoned ++ [s.snk.tentative ++ acc] },
      enc := (r (a + acc.length)).raise (.io c) }
  | .waits acc => { s with
      snk := { s.snk with answers := [], accepted := s.snk.accepted ++ acc, tentative := s.snk.tentative ++ acc },
      enc := r (a + acc.length) }

theorem encRun_of_stop {go : EncPhase → Bool} {s : State} (h : go s.enc.phase = false) (as : List SnkAnswer) :
    encRun go as s = .next s := by
  cases as <;> simp [encRun, h]

theorem encRun_cons_of_go {go : EncPhase → Bool} {s : State} (h : go s.enc.phase = true) (a : SnkAnswer) (as : List SnkAnswer) :
    encRun go (a :: as) s = andThen (encTransfer a s) (encRun go as) :=
  if_pos h

theorem encRun_eq_runWritten {go : EncPhase → Bool} (hidle : go .idle = false) {r : Nat → Enc} {bs : List Byte} {a : Nat}
    (h : Enc.Puts go r bs a) {s : State} (henc : s.enc = r a) :
    encRun go s.snk.answers s = .next (runWritten s bs r a (writeBytes bs (s.snk.answers.map SnkAnswer.meaning))) := by
  induction h generalizing s with
  | @stop a hstop =>
    rw [encRun_of_stop (henc ▸ hstop), writeBytes]
    simp [runWritten, accepting, ← henc]
  | @byte a v bs hbusy hgo hstep _ ih =>
    rw [← henc] at hbusy hgo
    cases hsnk : s.snk.answers with
    | nil =>
      change Host.Outcome.next s = .next { s with
        snk := { s.snk with answers := [], accepted := s.snk.accepted ++ [], tentative := s.snk.tentative ++ [] }, enc := r a }
      rw [List.append_nil, List.append_nil, ← henc, ← hsnk]
    | cons x as =>
      rw [encRun_cons_of_go hgo]
      cases hx : x.meaning with
      | fault c =>
        rw [encTransfer_of_fault hx hbusy, andThen_next, encRun_of_stop (by exact hidle)]
        simp [writeBytes, hx, runWritten, ← henc, State.raise, State.takeReply, Sink.abandon, hsnk]
      | ok =>
        have hrest := ih (s := (s.takeReply.accept v).withEnc (r (a + 1))) rfl
        rw [encTransfer_of_ok hx, hstep s.takeReply henc, andThen_next]
        simp only [State.withEnc, State.accept, State.takeReply, hsnk, List.tail_cons] at hrest ⊢
        rw [hrest, List.map_cons, hx, writeBytes]
        cases writeBytes bs (as.map SnkAnswer.meaning) <;>
          simp [runWritten, Written.accepting, accepting, hsnk, Nat.add_assoc, Nat.add_comm 1]

/-- A writing that does not end has accepted fewer bytes. -/
theorem accepted_lt_of_failed {bs acc : List Byte} {rs rest : List SinkReply} {c : Cause}
    (h : writeBytes bs rs = .failed c acc rest) : acc.length < bs.length := by
  induction bs generalizing rs acc with
  | nil => cases h
  | cons v bs ih =>
    match rs, h with
    | .fault _ :: _, h => cases h; exact Nat.succ_pos _
    | .ok :: rs, h =>
      change (writeBytes bs rs).accepting v = _ at h
      cases hw : writeBytes bs rs with
      | done acc' rest' => rw [hw] at h; cases h
      | failed c' acc' rest' => rw [hw] at h; cases h; exact Nat.succ_lt_succ (ih hw)
      | waits acc' => rw [hw] at h; cases h

theorem accepted_lt_of_waits {bs acc : List Byte} {rs : List SinkReply} (h : writeBytes bs rs = .waits acc) :
    acc.length < bs.length := by
  induction bs generalizing rs acc with
  | nil => cases h
  | cons v bs ih =>
    match rs, h with
    | [], h => cases h; exact Nat.succ_pos _
    | .ok :: rs, h =>
      change (writeBytes bs rs).accepting v = _ at h
      cases hw : writeBytes bs rs with
      | done acc' rest' => rw [hw] at h; cases h
      | failed c' acc' rest' => rw [hw] at h; cases h
      | waits acc' => rw [hw] at h; cases h; exact Nat.succ_lt_succ (ih hw)

/-! ### The places of a header (R190 to R193) -/

/-- The number of bytes of a header with `x` extended bytes. -/
def headerSize (m : Bool) (x : Nat) : Nat := 2 + x + if m then 4 else 0

/-- ENC at byte `j` of a header with `x` extended bytes, from the registers `e`; then at its end. -/
def Enc.headerRegs (n : Len) (m : Bool) (x : Nat) (e : Enc) (j : Nat) : Enc :=
  if j < headerSize m x then { e with phase := phaseAt x j, cnt := cntAt x j e.cnt }
  else encHeaderEnd n { e with cnt := if m = true ∨ 0 < x then some 0#4 else e.cnt }

/-- What a run over bytes `a` on of a header comes to. -/
def headerWritten (s : State) (bs : List Byte) (n : Len) (m : Bool) (x a : Nat) : Written → State
  | .done _ _ => { s with snk := accepting bs bs.length s.snk, enc := s.enc.headerRegs n m x (a + bs.length) }
  | .failed c acc _ => encodeFailed s c acc (cntAt x (a + acc.length) s.enc.cnt)
  | .waits acc => encodeWaits s acc (phaseAt x (a + acc.length)) (cntAt x (a + acc.length) s.enc.cnt)

theorem encRun_eq_headerWritten {go : EncPhase → Bool} (hidle : go .idle = false) {s : State} {n : Len} {m : Bool} {x a : Nat}
    {bs : List Byte} (h : Enc.Puts go (s.enc.headerRegs n m x) bs a) (henc : s.enc = s.enc.headerRegs n m x a)
    (hsize : a + bs.length ≤ headerSize m x) : encRun go s.snk.answers s =
      .next (headerWritten s bs n m x a (writeBytes bs (s.snk.answers.map SnkAnswer.meaning))) := by
  rw [encRun_eq_runWritten hidle h henc]
  cases hw : writeBytes bs (s.snk.answers.map SnkAnswer.meaning) with
  | done acc rest => rfl
  | failed c acc rest =>
    have hlt := accepted_lt_of_failed hw
    simp only [runWritten, Enc.headerRegs, if_pos (show a + acc.length < headerSize m x by omega)]
    rfl
  | waits acc =>
    have hlt := accepted_lt_of_waits hw
    simp only [runWritten, Enc.headerRegs, if_pos (show a + acc.length < headerSize m x by omega)]
    rfl

/-! ### One lemma per part of the header -/

theorem headerSize_ge (m : Bool) (x : Nat) : 2 + x ≤ headerSize m x := Nat.le_add_right _ _

theorem Enc.headerRegs_of_lt {n : Len} {m : Bool} {x : Nat} (e : Enc) {j : Nat} (h : j < headerSize m x) :
    e.headerRegs n m x j = { e with phase := phaseAt x j, cnt := cntAt x j e.cnt } := if_pos h

theorem Enc.headerRegs_headerSize (n : Len) (m : Bool) (x : Nat) (e : Enc) : e.headerRegs n m x (headerSize m x) =
    encHeaderEnd n { e with cnt := if m = true ∨ 0 < x then some 0#4 else e.cnt } := if_neg (Nat.lt_irrefl _)

theorem phaseAt_of_ext {x j : Nat} (hj : 2 ≤ j) (hx : j < 2 + x) : phaseAt x j = .ext := by
  rw [phaseAt, if_neg (by omega), if_neg (by omega), if_pos hx]

theorem phaseAt_of_key {x j : Nat} (h : 2 + x ≤ j) : phaseAt x j = .key := by
  rw [phaseAt, if_neg (by omega), if_neg (by omega), if_neg (by omega)]

theorem cntAt_of_ext {x j : Nat} (old : Option (BitVec 4)) (hj : 2 ≤ j) (hx : j < 2 + x) : cntAt x j old = left (2 + x) j := by
  rw [cntAt, if_neg (by omega), if_pos hx]

theorem cntAt_of_key (x i : Nat) (old : Option (BitVec 4)) : cntAt x (2 + x + i) old = left 4 i := by
  rw [cntAt, if_neg (by omega), if_neg (by omega), left, left, show 6 + x - (2 + x + i) = 4 - i by omega]

/-- At the length's end, whatever PHASE says before it, and CNT when there were extended bytes. -/
theorem encLengthEnd_eq_headerRegs (n : Len) (m : Bool) {x : Nat} (e : Enc) (p : EncPhase) {c : Option (BitVec 4)}
    (hc : c = if x = 0 then e.cnt else some 0#4) :
    encLengthEnd n m { e with phase := p, cnt := c } = e.headerRegs n m x (2 + x) := by
  subst hc
  cases m with
  | true =>
    rw [Enc.headerRegs_of_lt e (by simp [headerSize]), phaseAt_of_key (Nat.le_refl _),
      show cntAt x (2 + x) e.cnt = left 4 0 from cntAt_of_key x 0 e.cnt]
    rfl
  | false =>
    have h := Enc.headerRegs_headerSize n false x e
    rw [show headerSize false x = 2 + x from rfl] at h
    rw [h]
    rcases Nat.eq_zero_or_pos x with hx | hx
    · simp [encLengthEnd, encHeaderEnd, hx]
    · simp [encLengthEnd, encHeaderEnd, hx, hx.ne']

@[simp] theorem Enc.headerRegs_fin (n : Len) (m : Bool) (x : Nat) (e : Enc) (j : Nat) : (e.headerRegs n m x j).fin = e.fin := by
  unfold Enc.headerRegs
  split_ifs <;> rfl

@[simp] theorem Enc.headerRegs_opc (n : Len) (m : Bool) (x : Nat) (e : Enc) (j : Nat) : (e.headerRegs n m x j).opc = e.opc := by
  unfold Enc.headerRegs
  split_ifs <;> rfl

@[simp] theorem Enc.headerRegs_masked (n : Len) (m : Bool) (x : Nat) (e : Enc) (j : Nat) :
    (e.headerRegs n m x j).masked = e.masked := by
  unfold Enc.headerRegs
  split_ifs <;> rfl

@[simp] theorem Enc.headerRegs_len (n : Len) (m : Bool) (x : Nat) (e : Enc) (j : Nat) : (e.headerRegs n m x j).len = e.len := by
  unfold Enc.headerRegs
  split_ifs <;> rfl

@[simp] theorem Enc.headerRegs_key (n : Len) (m : Bool) (x : Nat) (e : Enc) (j : Nat) : (e.headerRegs n m x j).key = e.key := by
  unfold Enc.headerRegs
  split_ifs <;> rfl

/-- After b1 (R191), whatever PHASE says before it. -/
theorem Enc.headerRegs_two {n : Len} {m : Bool} {x : Nat} (hx : x = (lengthField n.toNat).2.length) (e : Enc) (p : EncPhase) :
    e.headerRegs n m x 2 =
      if n.toNat ≤ 125 then encLengthEnd n m { e with phase := p }
      else if n.toNat ≤ 65535 then { e with cnt := some 2#4, phase := .ext }
      else { e with cnt := some 8#4, phase := .ext } := by
  have hsize := headerSize_ge m x
  rw [lengthField_snd_length] at hx
  split_ifs at hx ⊢ with h7 h16
  · subst hx
    exact (encLengthEnd_eq_headerRegs n m e p rfl).symm
  all_goals
    rw [e.headerRegs_of_lt (show 2 < headerSize m x by omega), hx]
    rfl

theorem Enc.headerRegs_phase (n : Len) (m : Bool) (x : Nat) (e : Enc) (j : Nat) : (e.headerRegs n m x j).phase =
    if j < headerSize m x then phaseAt x j else if n = 0#64 then .flush else .pay := by
  unfold Enc.headerRegs
  by_cases hj : j < headerSize m x
  · rw [if_pos hj, if_pos hj]
  · rw [if_neg hj, if_neg hj, encHeaderEnd]

section Parts

variable {go : EncPhase → Bool} {e : Enc} {n : Len} {m : Bool} {x : Nat} {bs : List Byte}

/-- A byte offered inside the header. -/
theorem Enc.Puts.headerByte {j : Nat} {ph : EncPhase} {v : Byte} (hgo : go ph = true) (hbusy : ph ≠ .idle)
    (hj : j < headerSize m x) (hph : phaseAt x j = ph)
    (hstep : ∀ s : State, s.enc = e.headerRegs n m x j → s.enc.phase = ph → s.enc.cnt = cntAt x j e.cnt →
      encOkStep s = .next ((s.accept v).withEnc (e.headerRegs n m x (j + 1))))
    (h : Enc.Puts go (e.headerRegs n m x) bs (j + 1)) : Enc.Puts go (e.headerRegs n m x) (v :: bs) j := by
  have hregs := e.headerRegs_of_lt (n := n) hj
  have hphase : (e.headerRegs n m x j).phase = ph := by rw [hregs, ← hph]
  exact .byte (by rwa [hphase]) (by rwa [hphase])
    (fun s hs => hstep s hs (by rw [hs, hphase]) (by rw [hs, hregs])) h

/-- b0 (R190). -/
theorem Enc.Puts.firstByte {f : Bool} {o : BitVec 4} (hgo : go .hdr0 = true) (hfin : e.fin = some f) (hopc : e.opc = some o)
    (h : Enc.Puts go (e.headerRegs n m x) bs 1) :
    Enc.Puts go (e.headerRegs n m x) ((bit7 f ||| o.setWidth 8) :: bs) 0 := by
  have hsize := headerSize_ge m x
  refine .headerByte hgo (by decide) (by omega) rfl (fun s hs hphase hcnt => ?_) h
  rw [encOkStep_of_hdr0 hphase, Enc.b0_of_values (by rw [hs, Enc.headerRegs_fin, hfin]) (by rw [hs, Enc.headerRegs_opc, hopc]), hs,
    e.headerRegs_of_lt (show 0 < headerSize m x by omega), e.headerRegs_of_lt (show 0 + 1 < headerSize m x by omega)]
  rfl

/-- b1 (R191). -/
theorem Enc.Puts.secondByte (hgo : go .hdr1 = true) (hmasked : e.masked = some m) (hlen : e.len = some n)
    (hx : x = (lengthField n.toNat).2.length) (h : Enc.Puts go (e.headerRegs n m x) bs 2) :
    Enc.Puts go (e.headerRegs n m x) ((bit7 m ||| (lengthField n.toNat).1.setWidth 8) :: bs) 1 := by
  have hsize := headerSize_ge m x
  refine .headerByte hgo (by decide) (by omega) rfl (fun s hs hphase hcnt => ?_) h
  have hm : s.enc.masked = some m := by rw [hs, Enc.headerRegs_masked, hmasked]
  have hn : s.enc.len = some n := by rw [hs, Enc.headerRegs_len, hlen]
  rw [encOkStep_of_hdr1 hphase, Enc.b1_of_values hm hn, Enc.afterB1_of_values hm hn, hs,
    e.headerRegs_of_lt (show 1 < headerSize m x by omega), Enc.headerRegs_two hx e (phaseAt x 1)]
  rfl

/-- A byte of the length (R192), with `k` more to come. -/
theorem Enc.Puts.extByte {j k : Nat} (hgo : go .ext = true) (hmasked : e.masked = some m) (hlen : e.len = some n)
    (hx8 : x ≤ 8) (hj : 2 ≤ j) (hjk : j + (k + 1) = 2 + x) (h : Enc.Puts go (e.headerRegs n m x) bs (j + 1)) :
    Enc.Puts go (e.headerRegs n m x) (BitVec.ofNat 8 (n.toNat >>> (8 * k)) :: bs) j := by
  have hsize := headerSize_ge m x
  have hphaseAt : phaseAt x j = .ext := phaseAt_of_ext hj (by omega)
  refine .headerByte hgo (by decide) (by omega) hphaseAt (fun s hs hphase hcnt => ?_) h
  have hm : s.enc.masked = some m := by rw [hs, Enc.headerRegs_masked, hmasked]
  have hn : s.enc.len = some n := by rw [hs, Enc.headerRegs_len, hlen]
  rw [cntAt_of_ext _ hj (by omega), left, show 2 + x - j = k + 1 by omega] at hcnt
  rw [encOkStep_of_ext hphase, Enc.extOffer_of_values hn hcnt, Enc.afterExt_of_values hn hcnt hm,
    toNat_ofNat_of_lt (show k + 1 < 2 ^ 4 by omega), Nat.add_sub_cancel, hs,
    e.headerRegs_of_lt (show j < headerSize m x by omega)]
  simp only [ofNat_eq_one_iff (show k + 1 < 16 by omega), Nat.add_eq_right]
  congr 2
  split_ifs with hk
  · rw [show j + 1 = 2 + x by omega]
    exact encLengthEnd_eq_headerRegs n m e _ (by rw [if_neg (by omega)])
  · rw [e.headerRegs_of_lt (show j + 1 < headerSize m x by omega), hphaseAt,
      phaseAt_of_ext (show 2 ≤ j + 1 by omega) (by omega), cntAt_of_ext _ (show 2 ≤ j + 1 by omega) (by omega),
      left, show 2 + x - (j + 1) = k by omega, BitVec.ofNat_add, BitVec.add_sub_cancel]

/-- The last `k` bytes of the length. -/
theorem Enc.Puts.extBytes {j k : Nat} (hgo : go .ext = true) (hmasked : e.masked = some m) (hlen : e.len = some n)
    (hx8 : x ≤ 8) (hj : 2 ≤ j) (hjk : j + k = 2 + x) (h : Enc.Puts go (e.headerRegs n m x) bs (2 + x)) :
    Enc.Puts go (e.headerRegs n m x) (beBytes k n.toNat ++ bs) j := by
  induction k generalizing j with
  | zero => rwa [← hjk] at h
  | succ k ih =>
    rw [beBytes_eq_cons, List.cons_append]
    exact .extByte hgo hmasked hlen hx8 hj hjk (ih (by omega) (by omega))

/-- The length's bytes as big-endian bytes, eight at most. -/
theorem lengthField_snd_eq_beBytes (n : Nat) :
    (lengthField n).2 = beBytes (lengthField n).2.length n ∧ (lengthField n).2.length ≤ 8 := by
  by_cases h7 : n ≤ 125
  · rw [lengthField_of_le_125 h7]
    exact ⟨rfl, Nat.zero_le 8⟩
  by_cases h16 : n ≤ 65535
  · rw [lengthField_of_le_65535 h7 h16, beBytes_length]
    exact ⟨rfl, by decide⟩
  · rw [lengthField_of_gt_65535 h16, beBytes_length]
    exact ⟨rfl, by decide⟩

/-- The extended bytes of the minimal tier (R126). -/
theorem Enc.Puts.lengthBytes (hgo : go .ext = true) (hmasked : e.masked = some m) (hlen : e.len = some n)
    (hx : x = (lengthField n.toNat).2.length) (h : Enc.Puts go (e.headerRegs n m x) bs (2 + x)) :
    Enc.Puts go (e.headerRegs n m x) ((lengthField n.toNat).2 ++ bs) 2 := by
  obtain ⟨hfield, hx8⟩ := lengthField_snd_eq_beBytes n.toNat
  rw [← hx] at hfield hx8
  rw [hfield]
  exact .extBytes hgo hmasked hlen hx8 (Nat.le_refl 2) rfl h

/-- The key (R193). -/
theorem Enc.Puts.keyByte {i : Nat} {v : Byte} (hgo : go .key = true) (hlen : e.len = some n) (hi : i < 4)
    (hkey : e.key.get i = some v) (h : Enc.Puts go (e.headerRegs n true x) bs (2 + x + i + 1)) :
    Enc.Puts go (e.headerRegs n true x) (v :: bs) (2 + x + i) := by
  have hsize : headerSize true x = 2 + x + 4 := rfl
  have hphaseAt (i : Nat) : phaseAt x (2 + x + i) = .key := phaseAt_of_key (Nat.le_add_right ..)
  refine .headerByte hgo (by decide) (by omega) (hphaseAt i) (fun s hs hphase hcnt => ?_) h
  have hn : s.enc.len = some n := by rw [hs, Enc.headerRegs_len, hlen]
  have hc : (BitVec.ofNat 4 (4 - i)).toNat = 4 - i := toNat_ofNat_of_lt (by omega)
  have hle : BitVec.ofNat 4 (4 - i) ≤ 4#4 := BitVec.le_def.mpr (hc.trans_le (Nat.sub_le 4 i))
  have hk : s.enc.key.get (4 - (BitVec.ofNat 4 (4 - i)).toNat) = some v := by
    rw [hc, Nat.sub_sub_self hi.le, hs, Enc.headerRegs_key, hkey]
  rw [cntAt_of_key] at hcnt
  rw [encOkStep_of_key hphase, Enc.keyOffer_of_values hcnt hle hk, Enc.afterKeyByte_of_values hn hcnt, hs,
    e.headerRegs_of_lt (show 2 + x + i < headerSize true x by omega)]
  simp only [ofNat_eq_one_iff (show 4 - i < 16 by omega)]
  congr 2
  split_ifs with hlast
  · rw [show 2 + x + i + 1 = headerSize true x by omega, Enc.headerRegs_headerSize]
    rfl
  · rw [e.headerRegs_of_lt (show 2 + x + i + 1 < headerSize true x by omega), Nat.add_assoc (2 + x) i 1, hphaseAt, hphaseAt,
      cntAt_of_key, left, ofNat_sub_one (by omega), Nat.sub_sub]

theorem Enc.Puts.keyBytes {k : Key4} (hgo : go .key = true) (hlen : e.len = some n) (hkey : e.key = keyFile k)
    (h : Enc.Puts go (e.headerRegs n true x) [] (2 + x + 4)) : Enc.Puts go (e.headerRegs n true x) k.bytes (2 + x) :=
  have get (i : Nat) (v : Byte) (hv : (keyFile k).get i = some v) : e.key.get i = some v := hkey ▸ hv
  .keyByte (i := 0) hgo hlen (by decide) (get 0 _ rfl) <| .keyByte (i := 1) hgo hlen (by decide) (get 1 _ rfl) <|
    .keyByte (i := 2) hgo hlen (by decide) (get 2 _ rfl) <| .keyByte (i := 3) hgo hlen (by decide) (get 3 _ rfl) h

end Parts

/-! ### Where a run stops -/

section Stops

variable {go : EncPhase → Bool} {n : Len} {m : Bool} {x j : Nat} {e : Enc}

/-- A run that writes no payload stops at the header's end. -/
theorem Enc.Puts.headerEnd (hgo : ∀ p ∈ [EncPhase.flush, .pay], go p = false) (hj : headerSize m x ≤ j) :
    Enc.Puts go (e.headerRegs n m x) [] j := by
  refine .stop (hgo _ ?_)
  rw [Enc.headerRegs_phase, if_neg (Nat.not_lt.mpr hj)]
  split_ifs <;> simp

/-- A run that writes no key either stops at the length's end. -/
theorem Enc.Puts.lengthEnd (hgo : ∀ p ∈ [EncPhase.key, .flush, .pay], go p = false) (hj : 2 + x ≤ j) :
    Enc.Puts go (e.headerRegs n m x) [] j := by
  refine .stop (hgo _ ?_)
  rw [Enc.headerRegs_phase, phaseAt_of_key hj]
  split_ifs <;> simp

/-- A run that writes no extended byte either stops after b1. -/
theorem Enc.Puts.openingEnd (hgo : ∀ p ∈ [EncPhase.ext, .key, .flush, .pay], go p = false) (hj : 2 ≤ j) :
    Enc.Puts go (e.headerRegs n m x) [] j := by
  refine .stop (hgo _ ?_)
  rw [Enc.headerRegs_phase]
  rcases Nat.lt_or_ge j (2 + x) with hx | hx
  · rw [phaseAt_of_ext hj hx]
    split_ifs <;> simp
  · rw [phaseAt_of_key hx]
    split_ifs <;> simp

/-- ENC at b0 or at b1 stands where its registers say. -/
theorem Enc.eq_headerRegs (n : Len) (m : Bool) (x : Nat) (hj : j < 2) (h : e.phase = phaseAt x j) :
    e = e.headerRegs n m x j := by
  have hsize := headerSize_ge m x
  rw [e.headerRegs_of_lt (show j < headerSize m x by omega), cntAt, if_pos hj, ← h]

end Stops

/-! ### The rows (log 9, log 10) -/

/-- The row whose opening bytes ENC offers runs over what `go` names. -/
theorem putHeader_of_phase {s : State} {f m : Bool} {o : BitVec 4} {n : Len} (go : EncPhase → Bool) (hphase : s.enc.phase = .hdr0)
    (hfin : s.enc.fin = some f) (hopc : s.enc.opc = some o) (hmasked : s.enc.masked = some m) (hlen : s.enc.len = some n) :
    putHeader go (FirstByte.toByte ⟨f, 0#3, o⟩) (secondByte m (lengthField n.toNat).1) s = encRun go s.snk.answers s := by
  rw [putHeader, whenEnc_of_phase _ hphase, Enc.b0_of_values hfin hopc, Enc.b1_of_values hmasked hlen, bit7_or_opcode,
    bit7_or_setWidth, if_pos ⟨rfl, rfl⟩]

theorem lengthField_length_pos_iff (n : Nat) : 0 < (lengthField n).2.length ↔ 126 ≤ n := by
  rw [lengthField_snd_length]
  split_ifs <;> omega

/-- Settles O39: the header's bytes in turn, from b0 to the key. -/
theorem headerFormsOnEncode : Obligations.HeaderFormsOnEncode := by
  unfold Obligations.HeaderFormsOnEncode
  intro s f m o n k hphase hfin hopc hmasked hlen hkey field x bs
  have hsize : 0 + bs.length = headerSize m x := by
    cases m <;> simp [bs, headerSize, x, Key4.bytes] <;> omega
  have hend : Enc.Puts EncPhase.inHeader (s.enc.headerRegs n m x) (if m then k.bytes else []) (2 + x) := by
    cases m with
    | true => exact .keyBytes rfl hlen (hkey rfl) (.headerEnd (by decide) (Nat.le_refl _))
    | false => exact .headerEnd (by decide) (Nat.le_refl _)
  have hputs : Enc.Puts EncPhase.inHeader (s.enc.headerRegs n m x) bs 0 :=
    .firstByte rfl hfin hopc (.secondByte rfl hmasked hlen rfl (.lengthBytes rfl hmasked hlen rfl hend))
  rw [exec_headerRow]
  refine (putHeader_of_phase _ hphase hfin hopc hmasked hlen).trans ?_
  rw [encRun_eq_headerWritten rfl hputs (Enc.eq_headerRegs n m x (by decide) hphase) hsize.le]
  cases writeBytes bs (s.snk.answers.map SnkAnswer.meaning) with
  | done acc rest =>
    simp only [headerWritten, hsize, Enc.headerRegs_headerSize, ← lengthField_length_pos_iff]
    rfl
  | failed c acc rest => simp only [headerWritten, Nat.zero_add]
  | waits acc => simp only [headerWritten, Nat.zero_add]

/-- Settles O41: b0 and b1 in turn. -/
theorem opcodeRowsOnEncode : Obligations.OpcodeRowsOnEncode := by
  unfold Obligations.OpcodeRowsOnEncode
  intro s o f m n hphase hfin hopc hmasked hlen b0 b1
  have hputs : Enc.Puts EncPhase.inOpening (s.enc.headerRegs n m (lengthField n.toNat).2.length) [b0, b1] 0 :=
    .firstByte rfl hfin hopc (.secondByte rfl hmasked hlen rfl (.openingEnd (by decide) (Nat.le_refl 2)))
  have hb1 : b1 = secondByte m (lengthField n.toNat).1 := bit7_or_setWidth ..
  have hsize : 0 + [b0, b1].length ≤ headerSize m (lengthField n.toNat).2.length :=
    (Nat.le_add_right ..).trans (headerSize_ge ..)
  rw [exec_opcodeRow, hb1]
  refine (putHeader_of_phase _ hphase hfin hopc hmasked hlen).trans ?_
  rw [encRun_eq_headerWritten rfl hputs (Enc.eq_headerRegs n m _ (by decide) hphase) hsize, ← hb1]
  cases hw : writeBytes [b0, b1] (s.snk.answers.map SnkAnswer.meaning) with
  | done acc rest =>
    have htwo := Enc.headerRegs_two (n := n) (m := m) rfl s.enc s.enc.phase
    simp only [headerWritten, List.length_cons, List.length_nil, htwo, Nat.lt_succ_iff]
  | failed c acc rest =>
    have hlt : acc.length < 2 := accepted_lt_of_failed hw
    simp only [headerWritten, Nat.zero_add, cntAt, if_pos hlt]
  | waits acc =>
    have hlt : acc.length < 2 := accepted_lt_of_waits hw
    simp only [headerWritten, Nat.zero_add, cntAt, if_pos hlt]
    match acc, hlt with
    | [], _ => rfl
    | [_], _ => rfl

/-- The row of the tier that ENC.LEN has writes b1 and the extended bytes. -/
theorem writesLength_of_row {i : Instr} {s : State} {m : Bool} {n : Len}
    (hi : exec i = putLength (secondByte m (lengthField n.toNat).1)) (hphase : s.enc.phase = .hdr1)
    (hmasked : s.enc.masked = some m) (hlen : s.enc.len = some n) :
    WritesLength i s m n ((bit7 m ||| (lengthField n.toNat).1.setWidth 8) :: (lengthField n.toNat).2) := by
  have hsize : 1 + ((lengthField n.toNat).2.length + 1) = 2 + (lengthField n.toNat).2.length := by omega
  have hputs : Enc.Puts EncPhase.inLength (s.enc.headerRegs n m (lengthField n.toNat).2.length)
      ((bit7 m ||| (lengthField n.toNat).1.setWidth 8) :: ((lengthField n.toNat).2 ++ [])) 1 :=
    .secondByte rfl hmasked hlen rfl (.lengthBytes rfl hmasked hlen rfl (.lengthEnd (by decide) (Nat.le_refl _)))
  rw [List.append_nil] at hputs
  have hrun : exec i s = encRun EncPhase.inLength s.snk.answers s := by
    rw [hi, putLength, whenEnc_of_phase _ hphase, Enc.b1_of_values hmasked hlen, bit7_or_setWidth, if_pos rfl]
  rw [WritesLength, hrun, encRun_eq_headerWritten rfl hputs (Enc.eq_headerRegs n m _ (by decide) hphase)
    (hsize.trans_le (headerSize_ge ..))]
  cases writeBytes _ (s.snk.answers.map SnkAnswer.meaning) with
  | done acc rest =>
    have hend := encLengthEnd_eq_headerRegs n m (x := (lengthField n.toNat).2.length) s.enc s.enc.phase rfl
    simp only [headerWritten, List.length_cons, hsize, ← hend, Nat.add_eq_right]
  | failed c acc rest => rfl
  | waits acc => rfl

/-- Settles O32: b1 alone, length7 being the length. -/
theorem lenE7WritesInlineLength : Obligations.LenE7WritesInlineLength := by
  unfold Obligations.LenE7WritesInlineLength
  intro s m n hphase hmasked hlen hn
  have hfield := lengthField_of_le_125 (Nat.le_of_lt_succ hn)
  rw [BitVec.ofNat_toNat] at hfield
  have hle : n.setWidth 7 ≤ 125#7 := by bv_omega
  have hrow := writesLength_of_row (i := .lenE7 m (n.setWidth 7)) (by rw [hfield]; exact funext fun s => if_pos hle) hphase
    hmasked hlen
  rwa [lengthField_fst_setWidth, if_pos (Nat.le_of_lt_succ hn), BitVec.ofNat_toNat, hfield] at hrow

/-- Settles O33: b1, then the two bytes of the middle tier. -/
theorem lenE16WritesTwoBytes : Obligations.LenE16WritesTwoBytes := by
  unfold Obligations.LenE16WritesTwoBytes
  intro s m n hphase hmasked hlen hn hn'
  have hfield := lengthField_of_le_65535 (Nat.not_le.mpr hn) hn'
  have hrow := writesLength_of_row (i := .lenE16 m) (by rw [hfield]; rfl) hphase hmasked hlen
  rw [hfield] at hrow
  exact hrow

/-- Settles O34: b1, then the eight bytes of the last tier. -/
theorem lenE64WritesEightBytes : Obligations.LenE64WritesEightBytes := by
  unfold Obligations.LenE64WritesEightBytes
  intro s m n hphase hmasked hlen hn
  have hfield := lengthField_of_gt_65535 (Nat.not_le.mpr hn)
  have hrow := writesLength_of_row (i := .lenE64 m) (by rw [hfield]; rfl) hphase hmasked hlen
  rw [hfield] at hrow
  exact hrow

/-- MASK.KEY on encode: the key's four bytes in turn. -/
theorem maskKey_enc {s : State} {n : Len} {k : Key4} (l7 : BitVec 7) (hphase : s.enc.phase = .key) (hcnt : s.enc.cnt = some 4#4)
    (hlen : s.enc.len = some n) (hkey : s.enc.key = keyFile k) : exec (.maskKey .enc l7) s =
      .next (headerWritten s k.bytes n true 0 2 (writeBytes k.bytes (s.snk.answers.map SnkAnswer.meaning))) := by
  have hexec : exec (.maskKey .enc l7) s = encRun (fun p => decide (p = .key)) s.snk.answers s := if_pos ⟨hphase, hcnt⟩
  have hregs : s.enc = s.enc.headerRegs n true 0 2 := by
    rw [Enc.headerRegs_of_lt _ (by decide)]
    change _ = { s.enc with phase := .key, cnt := some 4#4 }
    rw [← hphase, ← hcnt]
  rw [hexec]
  exact encRun_eq_headerWritten (by decide) (.keyBytes (by decide) hlen hkey (.headerEnd (by decide) (Nat.le_refl _))) hregs
    (Nat.le_refl _)

/-- Settles O35: the run over the four key bytes, on either side. -/
theorem maskKeyMovesFourBytes : Obligations.MaskKeyMovesFourBytes := by
  unfold Obligations.MaskKeyMovesFourBytes
  refine fun s l7 n => ⟨fun hphase hcnt hlen => ?_, fun k hphase hcnt hlen hkey => ?_⟩
  · rw [maskKey_dec l7 hphase hcnt hlen]
    simp only
    cases readBytes 4 (s.src.answers.map SrcAnswer.meaning) with
    | done bs rest => rw [keyOutcome, ← hlen]
    | failed e rest =>
      simp only [decodeFailed_eq_failRegs, List.length_map]
      rfl
    | waits =>
      simp only [keyOutcome, ← hlen, ← hphase, List.length_map]
  · rw [maskKey_enc l7 hphase hcnt hlen hkey]
    cases writeBytes k.bytes (s.snk.answers.map SnkAnswer.meaning) with
    | done acc rest => rfl
    | failed c acc rest =>
      have hcntAt := cntAt_of_key 0 acc.length s.enc.cnt
      simp only [headerWritten, hcntAt]
    | waits acc =>
      have hcntAt := cntAt_of_key 0 acc.length s.enc.cnt
      have hphaseAt : phaseAt 0 (2 + acc.length) = .key := phaseAt_of_key (Nat.le_add_right ..)
      simp only [headerWritten, hcntAt, hphaseAt]

end Sys2Proof.Machine
end

section
/-! PROOFS. The sub-operations on one register or one byte: LEN.CHK and LEN.TIER (40_length.md R124, R126), MASK.XOR and MASK.PASS
(41_mask.md R142, R143). -/

namespace Sys2Proof.Machine

open Sys2Proof.Spec

/-! ### LEN.CHK and LEN.TIER -/

/-- Settles O30: the length is complete in each of these phases, and the check is the strict comparison. -/
theorem lenChkComparesWithMaxPayload : Obligations.LenChkComparesWithMaxPayload := by
  unfold Obligations.LenChkComparesWithMaxPayload
  intro s m l7 n hlen hphase
  have hcomplete : s.dec.lengthComplete = true := by
    obtain h | ⟨h, hcnt⟩ | h | h := hphase
    · simp [Dec.lengthComplete, DecPhase.busy, hlen, h]
    · simp [Dec.lengthComplete, DecPhase.busy, hlen, h, hcnt]
    · simp [Dec.lengthComplete, DecPhase.busy, hlen, h]
    · simp [Dec.lengthComplete, DecPhase.busy, hlen, h]
  refine (if_pos hcomplete).trans (congrArg _ ?_)
  simp only [overLong, Dec.lenV_of_some hlen, decide_eq_true_eq, BitVec.lt_def]
  rfl

/-- Settles O31: the tier of ENC.LEN as its number of extended bytes. -/
theorem lenTierChoosesMinimalTier : Obligations.LenTierChoosesMinimalTier := by
  unfold Obligations.LenTierChoosesMinimalTier
  intro s m l7 n hphase hlen
  have hexec : exec (.lenTier m l7) s = .next (s.withEnc { s.enc with cnt := some (tierOf n).extBytes }) := by
    rw [← Enc.lenV_of_some hlen s.offerCount]
    exact if_pos hphase
  rw [hexec, tierOf_eq]
  simp only [Nat.lt_succ_iff]
  split_ifs <;> rfl

/-! ### MASK.XOR and MASK.PASS: one payload byte -/

theorem payloadByteOn_dec {s : State} {m : Bool} (hphase : s.dec.phase = .pay) (hmasked : s.dec.masked = some m) {a : SrcAnswer}
    {as : List SrcAnswer} (hsrc : s.src.answers = a :: as) : payloadByteOn .dec m s = decTransfer a s := by
  rw [payloadByteOn, if_pos ⟨hphase, hmasked⟩, hsrc]

theorem payloadByteOn_enc {s : State} {m : Bool} (hphase : s.enc.phase = .pay) (hmasked : s.enc.masked = some m) {a : SnkAnswer}
    {as : List SnkAnswer} (hsnk : s.snk.answers = a :: as) : payloadByteOn .enc m s = encTransfer a s := by
  rw [payloadByteOn, if_pos ⟨hphase, hmasked⟩, hsnk]

/-- The source's answer at DEC.PAY: the step of R165 on a byte, or the error. -/
theorem readsPayloadByte_of_row {i : Instr} {m : Bool} (hi : exec i = payloadByteOn .dec m) : ReadsPayloadByte i m := by
  unfold ReadsPayloadByte
  intro s n ix k hphase hmasked hlen hidx hix hn hkey
  have hbusy : s.dec.phase ≠ .idle := by rw [hphase]; decide
  cases hsrc : s.src.answers with
  | nil =>
    rw [hi, payloadByteOn, if_pos ⟨hphase, hmasked⟩, hsrc]
  | cons a as =>
    have hrow : exec i s = decTransfer a s := hi ▸ payloadByteOn_dec hphase hmasked hsrc
    simp only
    cases ha : a.meaning with
    | data x =>
      have hstep : exec i s = exec (.decPay x) (s.takeAnswer a) := by
        have hpay : (s.takeAnswer a).dec.phase = .pay := hphase
        rw [hrow, decTransfer, ha]
        simp only [decDataStep, hpay]
        rfl
      obtain ⟨t, ht, hcell, hothers, hframe⟩ :=
        decPayStoresUnmaskedByte (s.takeAnswer a) x k n ix m hphase hmasked hlen hidx hix hn hkey
      rw [State.takeAnswer_of_data ha, hsrc] at hframe
      exact ⟨t, hstep.trans ht, hcell, hothers, hframe⟩
    | eos =>
      rw [hrow, decTransfer, ha]
      refine (decFailIn_code (s := s.takeAnswer a) .truncated hbusy).trans ?_
      rw [State.takeAnswer_of_eos ha, hsrc]
      rfl
    | fault c =>
      rw [hrow, decTransfer, ha]
      refine (decFailIn_code (s := s.takeAnswer a) (.io c) hbusy).trans ?_
      rw [State.takeAnswer_of_fault ha, hsrc]
      rfl

/-- The sink's answer at ENC.PAY: the step of R194 at `Ok`, or the error. -/
theorem writesPayloadByte_of_row {i : Instr} {m : Bool} (hi : exec i = payloadByteOn .enc m) : WritesPayloadByte i m := by
  unfold WritesPayloadByte
  intro s n ix k hphase hmasked hlen hidx hix hn hkey
  have hbusy : s.enc.phase ≠ .idle := by rw [hphase]; decide
  cases hsnk : s.snk.answers with
  | nil =>
    rw [hi, payloadByteOn, if_pos ⟨hphase, hmasked⟩, hsnk]
  | cons a as =>
    have hrow : exec i s = encTransfer a s := hi ▸ payloadByteOn_enc hphase hmasked hsnk
    simp only
    cases ha : a.meaning with
    | ok =>
      have hstep : exec i s = exec .encPay s.takeReply := by
        rw [hrow, encTransfer_of_ok ha, encOkStep, State.takeReply_enc, hphase]
        rfl
      obtain ⟨x, hx, ht⟩ := encPayWritesMaskedByte s.takeReply k n ix m hphase hmasked hlen hidx hix hn hkey
      refine ⟨x, hx, hstep.trans (ht.trans ?_)⟩
      simp [accepting, State.takeReply]
    | fault c =>
      rw [hrow, encTransfer_of_fault ha hbusy, State.takeReply, hsnk]
      rfl

/-- Settles O36: the row is one transfer in PAY with MASKED 1. -/
theorem maskXorMasksOneByte : Obligations.MaskXorMasksOneByte := by
  unfold Obligations.MaskXorMasksOneByte
  exact fun l7 => ⟨readsPayloadByte_of_row rfl, writesPayloadByte_of_row rfl⟩

/-- Settles O37: the row is one transfer in PAY with MASKED 0. -/
theorem maskPassMovesOneByte : Obligations.MaskPassMovesOneByte := by
  unfold Obligations.MaskPassMovesOneByte
  exact fun l7 => ⟨readsPayloadByte_of_row rfl, writesPayloadByte_of_row rfl⟩

end Sys2Proof.Machine
end

section
/-! PROOFS. A row runs only where PHASE, and the byte that ENC offers, name it (log 12, log 13, log 31). -/

namespace Sys2Proof.Machine

open Sys2Proof.Spec

/-! ### Away from the row's phase -/

theorem whenDec_of_phase_ne {ph : DecPhase} {s : State} (k : Out) (h : s.dec.phase ≠ ph) :
    whenDec ph s k = if s.dec.phase = .idle then .next s else .refused .notSelected :=
  if_neg h

theorem whenEnc_of_phase_ne {ph : EncPhase} {s : State} (k : Out) (h : s.enc.phase ≠ ph) :
    whenEnc ph s k = if s.enc.phase = .idle then .next s else .refused .notSelected :=
  if_neg h

theorem decFailIn_of_code_ne {ph : BitVec 3} {s : State} (e : FrameError) (hph : 1#3 ≤ ph ∧ ph ≤ 5#3) (h : s.dec.phase.code ≠ ph) :
    decFailIn ph e s = if s.dec.phase = .idle then .next s else .refused .notSelected := by
  rw [decFailIn, if_pos hph, if_neg h]

theorem execEncFault_of_code_ne {ph : BitVec 3} {s : State} (c : Cause) (hph : 1#3 ≤ ph ∧ ph ≤ 6#3) (h : s.enc.phase.code ≠ ph) :
    execEncFault ph c s = if s.enc.phase = .idle then .next s else .refused .notSelected := by
  rw [execEncFault, if_pos hph, if_neg h]

/-! ### The rows of a length -/

theorem exec_lenDRow (m : Bool) (l7 : BitVec 7) : exec (lenDRow m l7) = takeLength (secondByte m l7) := by
  by_cases h126 : l7 = 126#7
  · subst h126
    rfl
  by_cases h127 : l7 = 127#7
  · subst h127
    rfl
  rw [lenDRow, if_neg h126, if_neg h127]
  exact funext fun s => if_pos (le_125_of_ne h126 h127)

theorem exec_lenERow (m : Bool) (l7 : BitVec 7) : exec (lenERow m l7) = putLength (secondByte m l7) := by
  by_cases h126 : l7 = 126#7
  · subst h126
    rfl
  by_cases h127 : l7 = 127#7
  · subst h127
    rfl
  rw [lenERow, if_neg h126, if_neg h127]
  exact funext fun s => if_pos (le_125_of_ne h126 h127)

/-- A row that begins with a data byte, outside its phase. -/
theorem exec_decRows_of_phase_ne {s : State} {v : Byte} {f : FirstByte} {m : Bool} {l7 : BitVec 7} :
    ∀ p ∈ decRows v f m l7, s.dec.phase ≠ p.1 →
      exec p.2 s = if s.dec.phase = .idle then .next s else .refused .notSelected := by
  simp only [decRows, List.forall_mem_cons, List.not_mem_nil, false_implies, implies_true, and_true, exec_headerRow,
    exec_opcodeRow, exec_lenDRow]
  exact ⟨whenDec_of_phase_ne _, whenDec_of_phase_ne _, whenDec_of_phase_ne _, whenDec_of_phase_ne _, whenDec_of_phase_ne _,
    whenDec_of_phase_ne _, whenDec_of_phase_ne _, whenDec_of_phase_ne _⟩

/-- A row that begins with a byte offered, or the flush, outside its phase. -/
theorem exec_encRows_of_phase_ne {s : State} {f : FirstByte} {m : Bool} {l7 : BitVec 7} :
    ∀ p ∈ encRows f m l7, s.enc.phase ≠ p.1 →
      exec p.2 s = if s.enc.phase = .idle then .next s else .refused .notSelected := by
  simp only [encRows, List.forall_mem_cons, List.not_mem_nil, false_implies, implies_true, and_true, exec_headerRow,
    exec_opcodeRow, exec_lenERow]
  exact ⟨whenEnc_of_phase_ne _, whenEnc_of_phase_ne _, whenEnc_of_phase_ne _, whenEnc_of_phase_ne _, whenEnc_of_phase_ne _,
    whenEnc_of_phase_ne _, whenEnc_of_phase_ne _, whenEnc_of_phase_ne _, whenEnc_of_phase_ne _⟩

/-! ### Bytes that ENC does not offer -/

theorem FirstByte.toByte_injective {f g : FirstByte} (h : f.toByte = g.toByte) : f = g := by
  rw [← FirstByte.ofByte_toByte f, h, FirstByte.ofByte_toByte]

theorem secondByte_injective {m k : Bool} {l l' : BitVec 7} (h : secondByte m l = secondByte k l') : m = k ∧ l = l' := by
  constructor
  · rw [← maskOf_secondByte m l, h, maskOf_secondByte]
  · rw [← length7Of_secondByte m l, h, length7Of_secondByte]

theorem putHeader_of_other {s : State} {a k : Bool} {o : BitVec 4} {n : Len} (go : EncPhase → Bool) {f : FirstByte} {m : Bool}
    {l7 : BitVec 7} (hphase : s.enc.phase = .hdr0) (hfin : s.enc.fin = some a) (hopc : s.enc.opc = some o)
    (hmasked : s.enc.masked = some k) (hlen : s.enc.len = some n)
    (h : f ≠ ⟨a, 0#3, o⟩ ∨ m ≠ k ∨ l7 ≠ (lengthField n.toNat).1) :
    putHeader go f.toByte (secondByte m l7) s = .refused .notSelected := by
  rw [putHeader, whenEnc_of_phase _ hphase, Enc.b0_of_values hfin hopc, Enc.b1_of_values hmasked hlen, bit7_or_opcode,
    bit7_or_setWidth, if_neg]
  rintro ⟨hb0, hb1⟩
  obtain ⟨hm, hl7⟩ := secondByte_injective hb1
  obtain h | h | h := h
  exacts [h (FirstByte.toByte_injective hb0).symm, h hm.symm, h hl7.symm]

theorem putLength_of_other {s : State} {k : Bool} {n : Len} {m : Bool} {l7 : BitVec 7} (hphase : s.enc.phase = .hdr1)
    (hmasked : s.enc.masked = some k) (hlen : s.enc.len = some n) (h : m ≠ k ∨ l7 ≠ (lengthField n.toNat).1) :
    putLength (secondByte m l7) s = .refused .notSelected := by
  rw [putLength, whenEnc_of_phase _ hphase, Enc.b1_of_values hmasked hlen, bit7_or_setWidth, if_neg]
  intro hb1
  obtain ⟨hm, hl7⟩ := secondByte_injective hb1
  obtain h | h := h
  exacts [h hm.symm, h hl7.symm]

/-! ### No complete length, and operands outside a row's constraint -/

theorem lengthComplete_eq_false {d : Dec} (h : d.phase = .idle ∨ d.len = none ∨ (d.phase = .ext ∧ d.cnt ≠ some 0#4)) :
    d.lengthComplete = false := by
  obtain h | h | ⟨h, hcnt⟩ := h
  · simp [Dec.lengthComplete, DecPhase.busy, h]
  · simp [Dec.lengthComplete, h]
  · simp [Dec.lengthComplete, h, hcnt]

theorem exec_of_not_wf {i : Instr} (h : i.wf = false) (s : State) : exec i s = .refused .illFormed := by
  cases i with
  | hdrS side f l7 => exact if_neg (of_decide_eq_false h)
  | hdrSM side f l7 => exact if_neg (of_decide_eq_false h)
  | lenD7 m l7 => exact if_neg (of_decide_eq_false h)
  | lenE7 m l7 => exact if_neg (of_decide_eq_false h)
  | decEos ph => exact if_neg (of_decide_eq_false h)
  | decFault ph c => exact if_neg (of_decide_eq_false h)
  | encFault ph c => exact if_neg (of_decide_eq_false h)
  | _ => exact absurd h (show true ≠ false by decide)

/-- Settles O18: each row's own guard refuses it, or ignores it while IDLE. -/
theorem unselectedRowsDoNotRun : Obligations.UnselectedRowsDoNotRun := by
  unfold Obligations.UnselectedRowsDoNotRun
  intro s v c ph f m l7
  refine ⟨exec_decRows_of_phase_ne, exec_encRows_of_phase_ne, fun hlow hhigh hcode => ?_,
    fun hlow hhigh => execEncFault_of_code_ne c ⟨hlow, hhigh⟩,
    fun a k o n hphase hfin hopc hmasked hlen hother => ?_, fun k n hphase hmasked hlen hother => ?_,
    fun h => if_neg (by rw [lengthComplete_eq_false h]; decide), fun h => if_neg h, fun h => if_neg (not_and_or.mpr h),
    fun h => if_neg (not_and_or.mpr h), fun h => if_neg (not_and_or.mpr h), fun h => if_neg (not_and_or.mpr h),
    fun h => if_neg (not_and_or.mpr h), fun h => if_neg (not_and_or.mpr h), fun i h => exec_of_not_wf h s⟩
  · simp only [List.forall_mem_cons, List.not_mem_nil, false_implies, implies_true, and_true]
    exact ⟨decFailIn_of_code_ne .truncated ⟨hlow, hhigh⟩ hcode, decFailIn_of_code_ne (.io c) ⟨hlow, hhigh⟩ hcode⟩
  · rw [exec_headerRow, exec_opcodeRow]
    exact ⟨putHeader_of_other _ hphase hfin hopc hmasked hlen hother, putHeader_of_other _ hphase hfin hopc hmasked hlen hother⟩
  · rw [exec_lenERow]
    exact putLength_of_other hphase hmasked hlen hother

end Sys2Proof.Machine
end
